-- ==== Sys2Proof/Word.lean ====
section
/-! DEFINITION. The words of GFAE: what the spec treats as bits, and the lists built of them. -/

namespace Sys2Proof

/-- One byte of DMEM (20_memory.md R60). -/
abbrev Byte := BitVec 8

/-- A field element in integer form: bit i is the coefficient of x^i (00_scope.md R10). The width makes
every element less than 2^128 (10_state.md R34). -/
abbrev Elem := BitVec 128

/-- A command word (00_scope.md R7, 30_encoding.md R80). -/
abbrev CmdWord := BitVec 32

/-- A polynomial as its coefficient list, lowest degree first (00_scope.md R14). -/
abbrev Poly := List Elem

/-- The number of an element register, E0 to E15 (10_state.md R32). -/
abbrev EReg := Fin 16

/-- The number of a polynomial register, P0 to P15 (10_state.md R35). -/
abbrev PReg := Fin 16

end Sys2Proof
end

