-- ==== Sys2Proof/Syntax.lean ====
section
/-! DEFINITION. The commands of GFAE: one constructor per row of spec/opcode_table.json, its operands in the
order of the row's syntax (30_encoding.md R85). Immediates are numbers; WellFormed.lean says which fit. -/

namespace Sys2Proof

/-- The commands (30_encoding.md R85). Field names are those of the encoding: a, b, c registers, imm an
immediate or coefficient index, n a count, blk a DMEM block index. -/
inductive Instr where
  | nop
  | clrerr
  | fadd (a b c : EReg)
  | fmul (a b c : EReg)
  | fpow (a b c : EReg)
  | finv (a b : EReg)
  | fdiv (a b c : EReg)
  | fcmp (b c : EReg)
  | fmov (a b : EReg)
  | fli (a : EReg) (imm : Nat)
  | fldb (a : EReg) (blk : Nat)
  | fstb (a : EReg) (blk : Nat)
  | fldi (a : EReg) (blk : Nat)
  | fsti (a : EReg) (blk : Nat)
  | padd (a b c : PReg)
  | pmul (a b c : PReg)
  | pdiv (a b c : PReg)
  | pmod (a b c : PReg)
  | pgcd (a b c : PReg)
  | pmonic (a b : PReg)
  | pmov (a b : PReg)
  | pdeg (b : PReg)
  | psetc (a : PReg) (b : EReg) (imm : Nat)
  | pgetc (a : EReg) (b : PReg) (imm : Nat)
  | pld (a : PReg) (n blk : Nat)
  | pst (a : PReg) (blk : Nat)
  | ginit (b c : EReg)
  | gad (n blk : Nat)
  | gct (n blk : Nat)
  | gfin
  | gtag (a : EReg)
  | grd (a : EReg)
deriving DecidableEq, Repr

end Sys2Proof
end

