-- ==== Sys2Proof/WellFormed.lean ====
section
/-! DEFINITION. Which commands have an encoding: every immediate within its field (30_encoding.md R84, R90).
Every register number names a register (R83), so registers need no check. What the meanings do with other numbers
is log 15. -/

namespace Sys2Proof

/-- imm = w[13:0]: 0 to 16383 (30_encoding.md R84). -/
def immFits (imm : Nat) : Bool := decide (imm < 2 ^ 14)

/-- n = w[21:14]: 0 to 255 (30_encoding.md R84). -/
def countFits (n : Nat) : Bool := decide (n < 2 ^ 8)

/-- blk = w[13:0]: 0 to 16383 (30_encoding.md R84). -/
def blkFits (blk : Nat) : Bool := decide (blk < 2 ^ 14)

/-- Every field of the command fits its place in the word. -/
def Instr.wellFormed : Instr → Bool
  | .nop | .clrerr | .gfin => true
  | .fadd _ _ _ | .fmul _ _ _ | .fpow _ _ _ | .fdiv _ _ _ => true
  | .finv _ _ | .fcmp _ _ | .fmov _ _ => true
  | .padd _ _ _ | .pmul _ _ _ | .pdiv _ _ _ | .pmod _ _ _ | .pgcd _ _ _ => true
  | .pmonic _ _ | .pmov _ _ | .pdeg _ => true
  | .ginit _ _ | .gtag _ | .grd _ => true
  | .fli _ imm => immFits imm
  | .fldb _ blk | .fstb _ blk | .fldi _ blk | .fsti _ blk => blkFits blk
  | .psetc _ _ imm | .pgetc _ _ imm => immFits imm
  | .pld _ n blk => countFits n && blkFits blk
  | .pst _ blk => blkFits blk
  | .gad n blk | .gct n blk => countFits n && blkFits blk

end Sys2Proof
end

