-- ==== Sys2Proof/Decode.lean ====
section
/-! DEFINITION. The decoder, total over all 2^32 words (30_encoding.md R80 to R89), and after it the encoder.
A command word is one 32-bit value on CMD; it is never laid out in bytes (R80, 20_memory.md R74). -/

namespace Sys2Proof

/-- Why a word is illegal; both raise IllegalCommand (30_encoding.md R86, R87). -/
inductive DecodeError where
  /-- the opcode is reserved (R87) -/
  | reservedOpcode (op : Nat)
  /-- the opcode is defined and a must-be-zero bit is 1 (R86) -/
  | mustBeZero (op : Nat)
deriving DecidableEq, Repr

/-- Bits 31:26 (30_encoding.md R81). -/
def opcodeOf (w : CmdWord) : Nat := (w.extractLsb' 26 6).toNat

/-- The operand fields of a word; only the row's own are meaningful (30_encoding.md R83, R84, R89). -/
structure Fields where
  a : Fin 16
  b : Fin 16
  c : Fin 16
  imm : Nat
  n : Nat
  blk : Nat
deriving DecidableEq, Repr

/-- a = w[25:22], b = w[21:18], c = w[17:14], imm = blk = w[13:0], n = w[21:14]. -/
def fieldsOf (w : CmdWord) : Fields where
  a := (w.extractLsb' 22 4).toFin
  b := (w.extractLsb' 18 4).toFin
  c := (w.extractLsb' 14 4).toFin
  imm := (w.extractLsb' 0 14).toNat
  n := (w.extractLsb' 14 8).toNat
  blk := (w.extractLsb' 0 14).toNat

/-- One row of the opcode map (30_encoding.md R85). -/
structure OpRow where
  opcode : Nat
  pattern : CmdWord
  mask : CmdWord
  build : Fields → Instr

/-- The control and field rows of the opcode map (30_encoding.md R85). -/
def opRowsField : List OpRow :=
  [ ⟨0x00, 0x00000000, 0xFFFFFFFF, fun _ => .nop⟩,
    ⟨0x01, 0x04000000, 0xFFFFFFFF, fun _ => .clrerr⟩,
    ⟨0x08, 0x20000000, 0xFC003FFF, fun f => .fadd f.a f.b f.c⟩,
    ⟨0x09, 0x24000000, 0xFC003FFF, fun f => .fmul f.a f.b f.c⟩,
    ⟨0x0A, 0x28000000, 0xFC003FFF, fun f => .fpow f.a f.b f.c⟩,
    ⟨0x0B, 0x2C000000, 0xFC03FFFF, fun f => .finv f.a f.b⟩,
    ⟨0x0C, 0x30000000, 0xFC003FFF, fun f => .fdiv f.a f.b f.c⟩,
    ⟨0x0D, 0x34000000, 0xFFC03FFF, fun f => .fcmp f.b f.c⟩,
    ⟨0x0E, 0x38000000, 0xFC03FFFF, fun f => .fmov f.a f.b⟩,
    ⟨0x0F, 0x3C000000, 0xFC3FC000, fun f => .fli f.a f.imm⟩,
    ⟨0x10, 0x40000000, 0xFC3FC000, fun f => .fldb f.a f.blk⟩,
    ⟨0x11, 0x44000000, 0xFC3FC000, fun f => .fstb f.a f.blk⟩,
    ⟨0x12, 0x48000000, 0xFC3FC000, fun f => .fldi f.a f.blk⟩,
    ⟨0x13, 0x4C000000, 0xFC3FC000, fun f => .fsti f.a f.blk⟩ ]

/-- The polynomial and GHASH rows of the opcode map (30_encoding.md R85). -/
def opRowsPolyGhash : List OpRow :=
  [ ⟨0x20, 0x80000000, 0xFC003FFF, fun f => .padd f.a f.b f.c⟩,
    ⟨0x21, 0x84000000, 0xFC003FFF, fun f => .pmul f.a f.b f.c⟩,
    ⟨0x22, 0x88000000, 0xFC003FFF, fun f => .pdiv f.a f.b f.c⟩,
    ⟨0x23, 0x8C000000, 0xFC003FFF, fun f => .pmod f.a f.b f.c⟩,
    ⟨0x24, 0x90000000, 0xFC003FFF, fun f => .pgcd f.a f.b f.c⟩,
    ⟨0x25, 0x94000000, 0xFC03FFFF, fun f => .pmonic f.a f.b⟩,
    ⟨0x26, 0x98000000, 0xFC03FFFF, fun f => .pmov f.a f.b⟩,
    ⟨0x27, 0x9C000000, 0xFFC3FFFF, fun f => .pdeg f.b⟩,
    ⟨0x28, 0xA0000000, 0xFC03C000, fun f => .psetc f.a f.b f.imm⟩,
    ⟨0x29, 0xA4000000, 0xFC03C000, fun f => .pgetc f.a f.b f.imm⟩,
    ⟨0x2A, 0xA8000000, 0xFC000000, fun f => .pld f.a f.n f.blk⟩,
    ⟨0x2B, 0xAC000000, 0xFC3FC000, fun f => .pst f.a f.blk⟩,
    ⟨0x30, 0xC0000000, 0xFFC03FFF, fun f => .ginit f.b f.c⟩,
    ⟨0x31, 0xC4000000, 0xFFC00000, fun f => .gad f.n f.blk⟩,
    ⟨0x32, 0xC8000000, 0xFFC00000, fun f => .gct f.n f.blk⟩,
    ⟨0x33, 0xCC000000, 0xFFFFFFFF, fun _ => .gfin⟩,
    ⟨0x34, 0xD0000000, 0xFC3FFFFF, fun f => .gtag f.a⟩,
    ⟨0x35, 0xD4000000, 0xFC3FFFFF, fun f => .grd f.a⟩ ]

/-- The opcode map; an opcode with no row is reserved (30_encoding.md R85, R87). -/
def opRows : List OpRow := opRowsField ++ opRowsPolyGhash

/-- The row of an opcode, none where the opcode is reserved. -/
def opRowOf (op : Nat) : Option OpRow := opRows.find? (fun r => r.opcode == op)

/-- The decoder of 30_encoding.md R89. -/
def decode (w : CmdWord) : Except DecodeError Instr :=
  match opRowOf (opcodeOf w) with
  | none => .error (.reservedOpcode (opcodeOf w))
  | some row =>
    if w &&& row.mask = row.pattern then .ok (row.build (fieldsOf w))
    else .error (.mustBeZero (opcodeOf w))

/-! The encoder, from the formats and opcodes of the same rules. -/

/-- A field of k bits at bit `pos` of a word, 0 elsewhere. -/
def place {k : Nat} (x : BitVec k) (pos : Nat) : CmdWord := x.setWidth 32 <<< pos

/-- Format R (30_encoding.md R82): op at 31:26, a at 25:22, b at 21:18, c at 17:14. -/
def wordR (op : BitVec 6) (a b c : Fin 16) : CmdWord :=
  place op 26 ||| place (BitVec.ofNat 4 a.val) 22 ||| place (BitVec.ofNat 4 b.val) 18 |||
    place (BitVec.ofNat 4 c.val) 14

/-- Format I (30_encoding.md R82): op at 31:26, a at 25:22, b at 21:18, imm at 13:0. -/
def wordI (op : BitVec 6) (a b : Fin 16) (imm : Nat) : CmdWord :=
  place op 26 ||| place (BitVec.ofNat 4 a.val) 22 ||| place (BitVec.ofNat 4 b.val) 18 |||
    place (BitVec.ofNat 14 imm) 0

/-- Format M (30_encoding.md R82): op at 31:26, a at 25:22, n at 21:14, blk at 13:0. -/
def wordM (op : BitVec 6) (a : Fin 16) (n blk : Nat) : CmdWord :=
  place op 26 ||| place (BitVec.ofNat 4 a.val) 22 ||| place (BitVec.ofNat 8 n) 14 |||
    place (BitVec.ofNat 14 blk) 0

/-- Format N (30_encoding.md R82): op at 31:26. -/
def wordN (op : BitVec 6) : CmdWord := place op 26

/-- The word of a command (30_encoding.md R82, R85); an unused field is 0 (R86). -/
def encode : Instr → CmdWord
  | .nop => wordN 0x00
  | .clrerr => wordN 0x01
  | .fadd a b c => wordR 0x08 a b c
  | .fmul a b c => wordR 0x09 a b c
  | .fpow a b c => wordR 0x0A a b c
  | .finv a b => wordR 0x0B a b 0
  | .fdiv a b c => wordR 0x0C a b c
  | .fcmp b c => wordR 0x0D 0 b c
  | .fmov a b => wordR 0x0E a b 0
  | .fli a imm => wordI 0x0F a 0 imm
  | .fldb a blk => wordM 0x10 a 0 blk
  | .fstb a blk => wordM 0x11 a 0 blk
  | .fldi a blk => wordM 0x12 a 0 blk
  | .fsti a blk => wordM 0x13 a 0 blk
  | .padd a b c => wordR 0x20 a b c
  | .pmul a b c => wordR 0x21 a b c
  | .pdiv a b c => wordR 0x22 a b c
  | .pmod a b c => wordR 0x23 a b c
  | .pgcd a b c => wordR 0x24 a b c
  | .pmonic a b => wordR 0x25 a b 0
  | .pmov a b => wordR 0x26 a b 0
  | .pdeg b => wordR 0x27 0 b 0
  | .psetc a b imm => wordI 0x28 a b imm
  | .pgetc a b imm => wordI 0x29 a b imm
  | .pld a n blk => wordM 0x2A a n blk
  | .pst a blk => wordM 0x2B a 0 blk
  | .ginit b c => wordR 0x30 0 b c
  | .gad n blk => wordM 0x31 0 n blk
  | .gct n blk => wordM 0x32 0 n blk
  | .gfin => wordN 0x33
  | .gtag a => wordR 0x34 a 0 0
  | .grd a => wordR 0x35 a 0 0

/-- The one word that passes the error gate (60_exceptions.md R205, 43_control.md R191). -/
def clrerrWord : CmdWord := 0x04000000

/-- The command word whose low `nbits` bits are those of `w`, the rest 0. -/
def tableWord (nbits w : Nat) : CmdWord := BitVec.ofNat 32 (w % 2 ^ nbits)

/-- What the decoder reads from an instruction given as the opcode table numbers its bits. -/
def decodeTableWord (nbits w : Nat) : Option Instr :=
  if nbits ≤ 32 then (decode (tableWord nbits w)).toOption else none

end Sys2Proof
end

