-- ==== Sys2Proof/Machine/Galois.lean ====
section
/-! DEFINITION. Arithmetic of GF(2^128) under x^128 + x^7 + x^2 + x + 1 (00_scope.md R2, R13; 40_field.md
R111 to R113), and the exponent-set form (00_scope.md R17). Field addition is XOR (R114). -/

namespace Sys2Proof.Machine

/-- RP, the reduction polynomial in integer form (00_scope.md R18). -/
def reductionPoly : Nat := 2 ^ 128 + 0x87

/-- How many bits a number has; bitlen 0 = 0 (40_field.md R111). -/
def bitlen (v : Nat) : Nat := if v = 0 then 0 else v.log2 + 1

/-- The XOR of `a <<< i` over every i below the bound with bit i of `b` set. -/
def clmulUpTo (a b : Nat) : Nat → Nat
  | 0 => 0
  | i + 1 => clmulUpTo a b i ^^^ (if b.testBit i then a <<< i else 0)

/-- The carry-less product of two numbers (00_scope.md R13). -/
def clmul (a b : Nat) : Nat := clmulUpTo a b (bitlen b)

/-- The passes of reduce, at most `fuel` of them (40_field.md R111). -/
def reduceLoop : (fuel v : Nat) → Nat
  | 0, v => v
  | fuel + 1, v =>
    if bitlen v > 128 then reduceLoop fuel (v ^^^ (reductionPoly <<< (bitlen v - 129))) else v

/-- reduce(v) (40_field.md R111). Each pass shortens `v`, so bitlen v - 128 passes suffice
(70_reset_and_hazards.md R241; log 13). -/
def reduce (v : Nat) : Nat := reduceLoop (bitlen v - 128) v

/-- Field multiplication (40_field.md R112). -/
def gfmul (a b : Elem) : Elem := BitVec.ofNat 128 (reduce (clmul a.toNat b.toNat))

/-- One turn of square-and-multiply on (acc, base) for bit `i` of the exponent (40_field.md R113). -/
def gfpowTurn (e : Elem) (acc : Elem × Elem) (i : Nat) : Elem × Elem :=
  (if e.getLsbD i then gfmul acc.1 acc.2 else acc.1, gfmul acc.2 acc.2)

/-- The exact field power, by 128 turns from bit 0 up (40_field.md R113). -/
def gfpow (a e : Elem) : Elem := ((List.range 128).foldl (gfpowTurn e) (1, a)).1

/-- The exponent 2^128 - 2 of the inverse (40_field.md R117). -/
def invExponent : Elem := BitVec.ofNat 128 (2 ^ 128 - 2)

/-- a^(2^128 - 2), the inverse of a nonzero element (40_field.md R117); the zero element is turned away before
by the commands that use it (90_conflicts.md C2). -/
def gfinv (a : Elem) : Elem := gfpow a invExponent

/-- The exponent-set form of an element (00_scope.md R17); no command computes it. -/
def exps (x : Elem) : List Nat := (List.range 128).filter (fun i => x.getLsbD i)

/-- The element whose set bits are the members of the list (00_scope.md R17). -/
def fromExps (l : List Nat) : Elem := l.foldl (fun acc i => acc ||| BitVec.twoPow 128 i) 0

end Sys2Proof.Machine
end

