-- ==== Sys2Proof/Machine/PolyArith.lean ====
section
/-! DEFINITION. Polynomials over GF(2^128) as coefficient lists, lowest degree first (00_scope.md R14, R15;
41_polynomial.md R141 to R145). -/

namespace Sys2Proof.Machine

/-- The list without its trailing zero coefficients; an all-zero list gives [0] (00_scope.md R14). -/
def strip (l : List Elem) : Poly :=
  match l.reverse.dropWhile (· == 0) with
  | [] => [0]
  | c :: cs => (c :: cs).reverse

/-- The zero polynomial is the canonical list [0] (00_scope.md R14). -/
def isZero (p : Poly) : Bool := decide (p = [0])

/-- The leading coefficient (00_scope.md R14). -/
def lead (p : Poly) : Elem := p.getLastD 0

/-- A canonical list: one coefficient, or more with a nonzero last (00_scope.md R14). -/
def canonical (p : Poly) : Bool := p.length == 1 || (decide (p.length > 1) && lead p != 0)

/-- Coefficient i, 0 at and beyond the length (41_polynomial.md R141, R155). -/
def coeff (p : Poly) (i : Nat) : Elem := p.getD i 0

/-- Polynomial addition, which is subtraction too (41_polynomial.md R141). -/
def padd (p q : Poly) : Poly :=
  strip ((List.range (max p.length q.length)).map (fun i => coeff p i ^^^ coeff q i))

/-- Coefficient k of the convolution: the XOR of p_i * q_j over i + j = k (41_polynomial.md R142). -/
def convCoeff (p q : Poly) (k : Nat) : Elem :=
  (List.range (k + 1)).foldl (fun acc i => acc ^^^ gfmul (coeff p i) (coeff q (k - i))) 0

/-- Polynomial multiplication (41_polynomial.md R142). -/
def pmul (p q : Poly) : Poly :=
  strip ((List.range (p.length + q.length - 1)).map (convCoeff p q))

/-- The divisor scaled by t and shifted up by k places (41_polynomial.md R143). -/
def shiftedMultiple (k : Nat) (t : Elem) (d : Poly) : List Elem :=
  List.replicate k 0 ++ d.map (gfmul t)

/-- The passes of long division on (quotient, remainder), at most `fuel` of them (41_polynomial.md R143). -/
def pdivLoop (d : Poly) (inv : Elem) : (fuel : Nat) → (q r : Poly) → Poly × Poly
  | 0, q, r => (q, r)
  | fuel + 1, q, r =>
    if isZero r || decide (r.length < d.length) then (q, r)
    else
      pdivLoop d inv fuel
        (q.set (r.length - d.length) (gfmul (lead r) inv))
        (padd r (shiftedMultiple (r.length - d.length) (gfmul (lead r) inv) d))

/-- Long division by a nonzero divisor: (quotient, remainder) (41_polynomial.md R143). Each pass shortens the
remainder, so len(u) passes suffice (70_reset_and_hazards.md R241; log 13). -/
def pdivmod (u d : Poly) : Poly × Poly :=
  let out := pdivLoop d (gfinv (lead d)) u.length
    (List.replicate (max (u.length + 1 - d.length) 1) 0) u
  (strip out.1, out.2)

/-- Monic normalisation of a nonzero polynomial (41_polynomial.md R144). A monic one is unchanged, since the
inverse of 1 is 1. -/
def pmonic (p : Poly) : Poly := p.map (fun c => gfmul c (gfinv (lead p)))

/-- The passes of Euclid's algorithm, at most `fuel` of them (41_polynomial.md R145). -/
def pgcdLoop : (fuel : Nat) → (x y : Poly) → Poly
  | 0, x, _ => x
  | fuel + 1, x, y => if isZero y then x else pgcdLoop fuel y (pdivmod x y).2

/-- The monic greatest common divisor of two polynomials that are not both zero (41_polynomial.md R145). The
loop ends within len(u) + len(v) passes (70_reset_and_hazards.md R241; log 13). -/
def pgcd (u v : Poly) : Poly := pmonic (pgcdLoop (u.length + v.length) u v)

/-- The polynomial with coefficient i set to v, before stripping (41_polynomial.md R154): the list padded with
zeros to length max(len, i + 1), its place i replaced. -/
def setCoeff (p : Poly) (i : Nat) (v : Elem) : List Elem :=
  (p ++ List.replicate (i + 1 - p.length) 0).set i v

end Sys2Proof.Machine
end

