-- ==== Sys2Proof/Config.lean ====
section
/-! DEFINITION. What an implementation of GFAE fixes, and the one value the spec leaves free. -/

namespace Sys2Proof

/-- The parameters of an implementation (00_scope.md R8). HOST_DMEM_ACCESS is left unfixed: log 9. -/
structure Params where
  /-- PMAXLEN: the largest coefficient count a polynomial register holds. -/
  pmaxlen : Nat
  /-- DMEM_BLOCKS: how many 16-byte blocks DMEM has. -/
  dmemBlocks : Nat
deriving DecidableEq, Repr

/-- DMEM_BYTES (00_scope.md R8, 20_memory.md R60). -/
def Params.dmemBytes (p : Params) : Nat := 16 * p.dmemBlocks

/-- The legal ranges of the parameters (00_scope.md R8). -/
abbrev Params.Legal (p : Params) : Prop :=
  (2 ≤ p.pmaxlen ∧ p.pmaxlen ≤ 255) ∧ (1 ≤ p.dmemBlocks ∧ p.dmemBlocks ≤ 16384)

/-- The default values of the parameters (00_scope.md R8). -/
def Params.default : Params := { pmaxlen := 32, dmemBlocks := 4096 }

/-- What DMEM byte `addr` holds after reset number `resets` until something writes it: a free value, since
"each byte holds some value in 0..255 that no rule determines" (20_memory.md R61, 70_reset_and_hazards.md
R232, 93 U1). DESIGN CHOICE of form, log 1: safe, nothing can be proved of it. -/
opaque Config.dmemAtReset (resets addr : Nat) : Byte

end Sys2Proof
end

