-- ==== Sys2Proof/Machine/State.lean ====
section
/-! DEFINITION. The state of GFAE as plain data (10_state.md R49), what the outside does to it, the reasons a
step can stop, and the state right after reset (10_state.md R48). -/

namespace Sys2Proof.Machine

/-- GPHASE (10_state.md R40, R41). -/
inductive Phase where
  | idle
  | ad
  | ct
  | done
deriving DecidableEq, Repr

/-- The errors of 60_exceptions.md R200. -/
inductive ErrKind where
  | illegalCommand
  | divisionByZero
  | lengthMismatch
  /-- allocated for software above GFAE, never raised (R202) -/
  | factorizationExhausted
  /-- allocated for software above GFAE, never raised (R202) -/
  | forgeryValidationFailed
  | capacityExceeded
  | addressError
  | sequenceError
  | lengthOverflow
deriving DecidableEq, Repr

/-- One access of the host to the register window (10_state.md R42). `size` is its width in bytes and `off`
its offset from the window base, which is the platform's (93 U18). -/
inductive HostAccess where
  | read (size off : Nat)
  /-- The written bytes are the low bytes of `data`. -/
  | write (size off : Nat) (data : CmdWord)
deriving DecidableEq, Repr

/-- What can happen next, chosen outside GFAE (10_state.md R30, 70_reset_and_hazards.md R230, R240). -/
inductive Event where
  /-- the host makes an access -/
  | access (a : HostAccess)
  /-- the engine gets on before the host does anything more: log 4 -/
  | engine
  /-- the platform asserts reset -/
  | assertReset
  /-- the platform releases reset -/
  | releaseReset
deriving DecidableEq, Repr

/-- What a host read returns: a register (10_state.md R42) or a DMEM byte (20_memory.md R66). -/
inductive Response where
  | word (v : BitVec 32)
  | byte (v : Byte)
deriving DecidableEq, Repr

/-- DMEM as the bytes written since the last reset: (address, byte) pairs, addresses rising. An address that is
not listed holds nothing written, which `State.dmemByte` reads as a free value (log 1). -/
abbrev Memory := List Host.Cell

/-- The canonical form of DMEM: addresses strictly rise. A listed cell is a written byte and an unlisted address
is "nothing written", which no cell can say, so equal memories are equal lists. -/
abbrev Memory.wf (m : Memory) : Prop := (m.map Prod.fst).Pairwise (· < ·)

/-- A fault would stop the engine. GFAE has none: every error of 60_exceptions.md R200 is recorded in ERR,
ERRCODE and ERRCMD and the machine goes on (R204), so there is no constructor. Safe: nothing can raise one. -/
inductive Fault where
deriving DecidableEq, Repr

/-- The reasons a step is refused. All but the first are host accesses to which the spec gives no meaning and
which it tells a model to refuse; each is safe, since no claim can rest on a transition that is not there. -/
inductive Refusal where
  /-- An instruction with no meaning yet, by exec. Safe. -/
  | notModelled (mnemonic : String)
  /-- A host access that 70_reset_and_hazards.md R237 does not permit while BUSY = 1, by windowRead and
  windowWrite. Safe. -/
  | hostAccessWhileBusy
  /-- A host access to DMEM that is not one byte wide, HOST_DMEM_ACCESS being unfixed (20_memory.md R66), by
  windowRead and windowWrite. Safe. -/
  | dmemAccessNotByte
  /-- A host access at or past 0x40000 + DMEM_BYTES (20_memory.md R66), by windowRead and windowWrite. Safe. -/
  | accessOutsideWindow
  /-- A host access below 0x40000 that is not an aligned 32-bit word (10_state.md R47), by windowRead and
  windowWrite. Safe. -/
  | registerAccessNotWord
deriving DecidableEq, Repr

/-- Everything the spec gives the machine (10_state.md R48, R49), and the model's own input and output. -/
structure State where
  /-- E0 to E15 (R32) -/
  e : Vector Elem 16
  /-- P0 to P15 (R35) -/
  p : Vector Poly 16
  /-- FEQ (R38) -/
  feq : Bool
  /-- FLT (R38) -/
  flt : Bool
  /-- RESULT (R39) -/
  result : BitVec 32
  /-- GH_H (R40) -/
  ghH : Elem
  /-- GH_EY0 (R40) -/
  ghEy0 : Elem
  /-- GH_ACC (R40) -/
  ghAcc : Elem
  /-- GH_ADBITS (R40) -/
  ghAdBits : BitVec 64
  /-- GH_CTBITS (R40) -/
  ghCtBits : BitVec 64
  /-- GPHASE (R40) -/
  gphase : Phase
  /-- ERR (R42, 60_exceptions.md R204) -/
  err : Bool
  /-- ERRCODE (R42, 60_exceptions.md R200) -/
  errCode : BitVec 4
  /-- ERRCMD (R42, 60_exceptions.md R201) -/
  errCmd : CmdWord
  /-- DMEM, the bytes written since reset (20_memory.md R60, R61) -/
  dmem : Memory
  /-- what PARAM reports (R44): constant -/
  params : Params
  /-- the command word in execution; BUSY = 1 exactly when there is one (R45, R46; log 6) -/
  running : Option CmdWord
  /-- the CMD write held on the host bus (R45, 70_reset_and_hazards.md R236) -/
  held : Option CmdWord
  /-- reset is asserted (70_reset_and_hazards.md R230) -/
  inReset : Bool
  /-- the model's own: what happens next, oldest first (log 3, log 4) -/
  events : List Event
  /-- the model's own: what the last host access returned (log 10) -/
  response : Option Response
  /-- the model's own: how many resets came before, the index of DMEM's free values (log 2) -/
  resets : Nat
deriving DecidableEq, Repr

/-- The machine right after reset (10_state.md R48), with the default parameters (00_scope.md R8; log 5). DMEM
lists nothing: each byte is unspecified (20_memory.md R61). -/
def State.reset : State where
  e := Vector.replicate 16 0
  p := Vector.replicate 16 [0]
  feq := false
  flt := false
  result := 0
  ghH := 0
  ghEy0 := 0
  ghAcc := 0
  ghAdBits := 0
  ghCtBits := 0
  gphase := .idle
  err := false
  errCode := 0
  errCmd := 0
  dmem := []
  params := Params.default
  running := none
  held := none
  inReset := false
  events := []
  response := none
  resets := 0

end Sys2Proof.Machine
end

