-- ==== Sys2Proof/Machine/Ops.lean ====
section
/-! DEFINITION. The named operations over registers, DMEM and the error state; taking an error and returning
from one; taking a reset. Every meaning is written over these. -/

namespace Sys2Proof.Machine

/-! Registers -/

/-- E[r] (00_scope.md R11, 10_state.md R32). -/
def State.readE (s : State) (r : EReg) : Elem := s.e.get r

/-- E[r] <- v (00_scope.md R11, 10_state.md R32). -/
def State.writeE (s : State) (r : EReg) (v : Elem) : State := { s with e := s.e.set r.val v r.isLt }

/-- P[r] (00_scope.md R11, 10_state.md R35). -/
def State.readP (s : State) (r : PReg) : Poly := s.p.get r

/-- P[r] <- p. Every result is stripped before it is written (10_state.md R36, 41_polynomial.md R140; log 12). -/
def State.writeP (s : State) (r : PReg) (q : List Elem) : State :=
  { s with p := s.p.set r.val (strip q) r.isLt }

/-- Both flags are written together (10_state.md R38). -/
def State.setFlags (s : State) (feq flt : Bool) : State := { s with feq := feq, flt := flt }

/-- RESULT <- zext_32(v) (10_state.md R39). -/
def State.setResult (s : State) (v : Nat) : State := { s with result := BitVec.ofNat 32 v }

/-! GHASH state (10_state.md R40) -/

/-- Begin a message: H and E(Y0) taken, accumulator and counters cleared, phase AD (42_ghash.md R173). -/
def State.startMessage (s : State) (h ey0 : Elem) : State :=
  { s with ghH := h, ghEy0 := ey0, ghAcc := 0, ghAdBits := 0, ghCtBits := 0, gphase := .ad }

/-- GH_ACC <- v. -/
def State.setAcc (s : State) (v : Elem) : State := { s with ghAcc := v }

/-- GH_ADBITS <- GH_ADBITS + k; the caller has checked that it fits (42_ghash.md R174). -/
def State.addAdBits (s : State) (k : Nat) : State :=
  { s with ghAdBits := s.ghAdBits + BitVec.ofNat 64 k }

/-- GH_CTBITS <- GH_CTBITS + k; the caller has checked that it fits (42_ghash.md R175). -/
def State.addCtBits (s : State) (k : Nat) : State :=
  { s with ghCtBits := s.ghCtBits + BitVec.ofNat 64 k }

/-- GPHASE <- ph. -/
def State.setPhase (s : State) (ph : Phase) : State := { s with gphase := ph }

/-! DMEM (20_memory.md R60 to R62, R69) -/

/-- The byte written at an address, none where nothing has been written. -/
def Memory.lookup : Memory → Nat → Option Byte
  | [], _ => none
  | (a, b) :: m, x => if a = x then some b else Memory.lookup m x

/-- Write one byte, keeping the addresses rising. -/
def Memory.write : Memory → Nat → Byte → Memory
  | [], x, v => [(x, v)]
  | (a, b) :: m, x, v =>
    if x < a then (x, v) :: (a, b) :: m
    else if a = x then (x, v) :: m
    else (a, b) :: Memory.write m x v

/-- Write bytes at rising addresses from `x` on (20_memory.md R62). -/
def Memory.writeBytes : Memory → Nat → List Byte → Memory
  | m, _, [] => m
  | m, x, v :: vs => Memory.writeBytes (Memory.write m x v) (x + 1) vs

/-- DMEM[addr]: the last byte written there since reset, or the free value of 20_memory.md R61 (log 1). -/
def State.dmemByte (s : State) (addr : Nat) : Byte :=
  (s.dmem.lookup addr).getD (Config.dmemAtReset s.resets addr)

/-- MemRead(addr, n) (20_memory.md R62). -/
def State.memRead (s : State) (addr n : Nat) : List Byte :=
  (List.range n).map (fun k => s.dmemByte (addr + k))

/-- MemWrite(addr, n, bytes), n being their number (20_memory.md R62). -/
def State.memWrite (s : State) (addr : Nat) (bytes : List Byte) : State :=
  { s with dmem := s.dmem.writeBytes addr bytes }

/-- The byte address of a block (30_encoding.md R84, 20_memory.md R68). -/
def blockAddr (blk : Nat) : Nat := 16 * blk

/-- The range check of a command that touches `k` whole blocks from `blk` on (20_memory.md R69). -/
def State.blocksInRange (s : State) (blk k : Nat) : Bool := decide (blk + k ≤ s.params.dmemBlocks)

/-- The range check of a command that reads `n` bytes from block `blk` on (20_memory.md R69). -/
def State.bytesInRange (s : State) (blk n : Nat) : Bool :=
  decide (blockAddr blk + n ≤ s.params.dmemBytes)

/-! Errors (60_exceptions.md R200 to R208) -/

/-- The code of an error in STATUS.ERRCODE (60_exceptions.md R200). -/
def ErrKind.code : ErrKind → BitVec 4
  | .illegalCommand => 1
  | .divisionByZero => 2
  | .lengthMismatch => 3
  | .factorizationExhausted => 4
  | .forgeryValidationFailed => 5
  | .capacityExceeded => 6
  | .addressError => 7
  | .sequenceError => 8
  | .lengthOverflow => 9

/-- Error entry: ERR, ERRCODE and ERRCMD are written and nothing else changes (60_exceptions.md R204). BUSY
falls with the command's completion (Machine/Issue.lean). -/
def State.enterError (s : State) (k : ErrKind) (w : CmdWord) : State :=
  { s with err := true, errCode := k.code, errCmd := w }

/-- The return from an error (60_exceptions.md R208, 43_control.md R191). -/
def State.clearError (s : State) : State := { s with err := false, errCode := 0, errCmd := 0 }

/-- `raise Err(k)` by command `i` (00_scope.md R11): the command ends with the error. ERRCMD is the word of the
command, which `encode` gives back since every bit of a legal word is fixed or an operand (log 14). -/
def raise (k : ErrKind) (i : Instr) (s : State) : Host.Outcome State Fault Refusal :=
  .next (s.enterError k (encode i))

/-! Reset (70_reset_and_hazards.md R230 to R232) -/

/-- Reset is asserted: the table of 10_state.md R48. The command in execution and a held word are dropped with
no effect (70_reset_and_hazards.md R231), PARAM keeps its value (R230), and DMEM is unspecified anew (R232). The
events still to come are the outside's and stay. -/
def State.takeReset (s : State) : State :=
  { State.reset with
    params := s.params, inReset := true, events := s.events, resets := s.resets + 1 }

end Sys2Proof.Machine
end

