-- ==== Sys2Proof/Machine/Control.lean ====
section
/-! DEFINITION. The control commands (43_control.md). -/

namespace Sys2Proof.Machine

/-- NOP (43_control.md R190): nothing. -/
def execNop (s : State) : Host.Outcome State Fault Refusal := .next s

/-- CLRERR (43_control.md R191): ERR, ERRCODE and ERRCMD become 0. -/
def execClrerr (s : State) : Host.Outcome State Fault Refusal := .next s.clearError

end Sys2Proof.Machine
end

