-- ==== Sys2Proof/Machine/Flags.lean ====
section
/-! DEFINITION. The flag computations: those of FCMP and of PDEG, the only commands that write FEQ and FLT
(10_state.md R38). -/

namespace Sys2Proof.Machine

/-- FEQ of a comparison: the integer forms are equal (40_field.md R119). -/
def cmpFeq (x y : Elem) : Bool := decide (x = y)

/-- FLT of a comparison: unsigned order of the integer forms (40_field.md R119). -/
def cmpFlt (x y : Elem) : Bool := decide (x.toNat < y.toNat)

/-- FEQ of a degree: the polynomial is zero (41_polynomial.md R153). -/
def degFeq (p : Poly) : Bool := isZero p

/-- FLT of a degree: always 0 (41_polynomial.md R153). -/
def degFlt (_p : Poly) : Bool := false

end Sys2Proof.Machine
end

