-- ==== Sys2Proof/Machine/Operands.lean ====
section
/-! DEFINITION. The forms in which field elements, polynomials and byte strings stand in DMEM and cross into the
engine (20_memory.md R63 to R65, R78; 42_ghash.md R171), and the operand accesses built on them. -/

namespace Sys2Proof.Machine

/-- BE(s): the number whose big-endian bytes are s (00_scope.md R11). -/
def beValue (s : List Byte) : Nat := s.foldl (fun acc b => acc * 256 + b.toNat) 0

/-- BE_n(v): the n big-endian bytes of v (00_scope.md R11). -/
def beBytes (n v : Nat) : List Byte :=
  (List.range n).map (fun k => BitVec.ofNat 8 (v >>> (8 * (n - 1 - k))))

/-- rev128: bit i of the result is bit 127 - i of v (00_scope.md R12). -/
def rev128 (v : Elem) : Elem := v.reverse

/-- BlockToElem (20_memory.md R63). -/
def blockToElem (s : List Byte) : Elem := rev128 (BitVec.ofNat 128 (beValue s))

/-- ElemToBlock (20_memory.md R63). -/
def elemToBlock (x : Elem) : List Byte := beBytes 16 (rev128 x).toNat

/-- IntToElem (20_memory.md R64). -/
def intToElem (s : List Byte) : Elem := BitVec.ofNat 128 (beValue s)

/-- ElemToInt (20_memory.md R64). -/
def elemToInt (x : Elem) : List Byte := beBytes 16 x.toNat

/-- LenBlock(a, c) (20_memory.md R65). -/
def lenBlock (adBits ctBits : Nat) : List Byte := beBytes 8 adBits ++ beBytes 8 ctBits

/-- Piece j of pad16: 16 bytes from 16j on, zero-padded on the right (42_ghash.md R171). -/
def padPiece (s : List Byte) (j : Nat) : List Byte :=
  (List.range 16).map (fun k => s.getD (16 * j + k) 0)

/-- pad16(s): the ceil(len(s)/16) pieces of s (42_ghash.md R171). -/
def pad16 (s : List Byte) : List (List Byte) := (List.range ((s.length + 15) / 16)).map (padPiece s)

/-- The 16 bytes of a block. -/
def State.readBlock (s : State) (blk : Nat) : List Byte := s.memRead (blockAddr blk) 16

/-- The coefficients in n consecutive blocks, lowest degree first (20_memory.md R78). -/
def State.readCoeffs (s : State) (blk n : Nat) : List Elem :=
  (List.range n).map (fun j => blockToElem (s.readBlock (blk + j)))

/-- How many blocks the interchange format of a polynomial takes: none for the zero polynomial (20_memory.md
R78). -/
def interchangeLen (p : Poly) : Nat := if isZero p then 0 else p.length

/-- The interchange format of a polynomial, as consecutive bytes (20_memory.md R78). -/
def interchangeBytes (p : Poly) : List Byte :=
  if isZero p then [] else p.flatMap elemToBlock

end Sys2Proof.Machine
end

