-- ==== Sys2Proof/Machine/Field.lean ====
section
/-! DEFINITION. The field-element commands (40_field.md). Checks stand before any write (R110). -/

namespace Sys2Proof.Machine

/-- FADD (40_field.md R114): E[a] <- E[b] XOR E[c]. -/
def execFadd (a b c : EReg) (s : State) : Host.Outcome State Fault Refusal :=
  .next (s.writeE a (s.readE b ^^^ s.readE c))

/-- FMUL (40_field.md R115): E[a] <- gfmul(E[b], E[c]). -/
def execFmul (a b c : EReg) (s : State) : Host.Outcome State Fault Refusal :=
  .next (s.writeE a (gfmul (s.readE b) (s.readE c)))

/-- FPOW (40_field.md R116): E[a] <- gfpow(E[b], E[c]), the exponent in integer form. -/
def execFpow (a b c : EReg) (s : State) : Host.Outcome State Fault Refusal :=
  .next (s.writeE a (gfpow (s.readE b) (s.readE c)))

/-- FINV (40_field.md R117): the inverse; DivisionByZero for the zero element. -/
def execFinv (a b : EReg) (s : State) : Host.Outcome State Fault Refusal :=
  if s.readE b = 0 then raise .divisionByZero (.finv a b) s
  else .next (s.writeE a (gfinv (s.readE b)))

/-- FDIV (40_field.md R118): E[b] times the inverse of E[c]; DivisionByZero for a zero divisor. -/
def execFdiv (a b c : EReg) (s : State) : Host.Outcome State Fault Refusal :=
  if s.readE c = 0 then raise .divisionByZero (.fdiv a b c) s
  else .next (s.writeE a (gfmul (s.readE b) (gfinv (s.readE c))))

/-- FCMP (40_field.md R119): FEQ and FLT from the integer forms. -/
def execFcmp (b c : EReg) (s : State) : Host.Outcome State Fault Refusal :=
  .next (s.setFlags (cmpFeq (s.readE b) (s.readE c)) (cmpFlt (s.readE b) (s.readE c)))

/-- FMOV (40_field.md R120): E[a] <- E[b]. -/
def execFmov (a b : EReg) (s : State) : Host.Outcome State Fault Refusal :=
  .next (s.writeE a (s.readE b))

/-- FLI (40_field.md R121): E[a] <- zext_128(imm). -/
def execFli (a : EReg) (imm : Nat) (s : State) : Host.Outcome State Fault Refusal :=
  .next (s.writeE a (BitVec.ofNat 128 imm))

/-- FLDB (40_field.md R122): load from the block encoding. -/
def execFldb (a : EReg) (blk : Nat) (s : State) : Host.Outcome State Fault Refusal :=
  if s.blocksInRange blk 1 then .next (s.writeE a (blockToElem (s.readBlock blk)))
  else raise .addressError (.fldb a blk) s

/-- FSTB (40_field.md R123): store in the block encoding. -/
def execFstb (a : EReg) (blk : Nat) (s : State) : Host.Outcome State Fault Refusal :=
  if s.blocksInRange blk 1 then .next (s.memWrite (blockAddr blk) (elemToBlock (s.readE a)))
  else raise .addressError (.fstb a blk) s

/-- FLDI (40_field.md R124): load from the integer encoding. -/
def execFldi (a : EReg) (blk : Nat) (s : State) : Host.Outcome State Fault Refusal :=
  if s.blocksInRange blk 1 then .next (s.writeE a (intToElem (s.readBlock blk)))
  else raise .addressError (.fldi a blk) s

/-- FSTI (40_field.md R125): store in the integer encoding. -/
def execFsti (a : EReg) (blk : Nat) (s : State) : Host.Outcome State Fault Refusal :=
  if s.blocksInRange blk 1 then .next (s.memWrite (blockAddr blk) (elemToInt (s.readE a)))
  else raise .addressError (.fsti a blk) s

end Sys2Proof.Machine
end

