-- ==== Sys2Proof/Machine/Ghash.lean ====
section
/-! DEFINITION. The GHASH commands (42_ghash.md), and the functions GHASH and Tag they compute (R171, R172).
Checks stand before any read of DMEM and before any write (R170), in the order of 60_exceptions.md R206. -/

namespace Sys2Proof.Machine

/-- One Horner step: (accumulator XOR block) * H (42_ghash.md R171). -/
def hornerStep (h x : Elem) (block : List Byte) : Elem := gfmul (x ^^^ blockToElem block) h

/-- The Horner steps over blocks, from accumulator x (42_ghash.md R171). -/
def horner (h x : Elem) (blocks : List (List Byte)) : Elem := blocks.foldl (hornerStep h) x

/-- The largest bit length a counter holds (42_ghash.md R174). -/
def maxBitLen : Nat := 2 ^ 64 - 1

/-- GINIT (42_ghash.md R173): accepted in every phase. -/
def execGinit (b c : EReg) (s : State) : Host.Outcome State Fault Refusal :=
  .next (s.startMessage (s.readE b) (s.readE c))

/-- The AD stream is open: phase AD, and no partial block absorbed (42_ghash.md R174, 10_state.md R41). -/
def State.adOpen (s : State) : Bool :=
  decide (s.gphase = .ad) && decide (s.ghAdBits.toNat % 128 = 0)

/-- The CT stream is open: phase AD or CT, and no partial block absorbed (42_ghash.md R175, 10_state.md R41). -/
def State.ctOpen (s : State) : Bool :=
  (decide (s.gphase = .ad) || decide (s.gphase = .ct)) && decide (s.ghCtBits.toNat % 128 = 0)

/-- GAD (42_ghash.md R174): absorb n bytes of associated data. -/
def execGad (n blk : Nat) (s : State) : Host.Outcome State Fault Refusal :=
  if !s.adOpen then raise .sequenceError (.gad n blk) s
  else if n = 0 then raise .lengthMismatch (.gad n blk) s
  else if !s.bytesInRange blk n then raise .addressError (.gad n blk) s
  else if s.ghAdBits.toNat + 8 * n > maxBitLen then raise .lengthOverflow (.gad n blk) s
  else
    .next ((s.setAcc (horner s.ghH s.ghAcc (pad16 (s.memRead (blockAddr blk) n)))).addAdBits (8 * n))

/-- GCT (42_ghash.md R175): absorb n bytes of ciphertext; the phase becomes CT. -/
def execGct (n blk : Nat) (s : State) : Host.Outcome State Fault Refusal :=
  if !s.ctOpen then raise .sequenceError (.gct n blk) s
  else if n = 0 then raise .lengthMismatch (.gct n blk) s
  else if !s.bytesInRange blk n then raise .addressError (.gct n blk) s
  else if s.ghCtBits.toNat + 8 * n > maxBitLen then raise .lengthOverflow (.gct n blk) s
  else
    .next (((s.setAcc (horner s.ghH s.ghAcc (pad16 (s.memRead (blockAddr blk) n)))).addCtBits
      (8 * n)).setPhase .ct)

/-- The blocks GFIN absorbs: one all-zero block for an empty CT, then the length block (42_ghash.md R176). -/
def State.finalBlocks (s : State) : List (List Byte) :=
  (if s.ghCtBits = 0 then [List.replicate 16 0] else []) ++
    [lenBlock s.ghAdBits.toNat s.ghCtBits.toNat]

/-- GFIN (42_ghash.md R176): the empty-CT rule and the length block; the phase becomes DONE. -/
def execGfin (s : State) : Host.Outcome State Fault Refusal :=
  if s.gphase = .ad ∨ s.gphase = .ct then
    .next ((s.setAcc (horner s.ghH s.ghAcc s.finalBlocks)).setPhase .done)
  else raise .sequenceError .gfin s

/-- GTAG (42_ghash.md R177): E[a] <- GH_ACC XOR GH_EY0, in phase DONE only. -/
def execGtag (a : EReg) (s : State) : Host.Outcome State Fault Refusal :=
  if s.gphase = .done then .next (s.writeE a (s.ghAcc ^^^ s.ghEy0))
  else raise .sequenceError (.gtag a) s

/-- GRD (42_ghash.md R178): E[a] <- GH_ACC, in every phase. -/
def execGrd (a : EReg) (s : State) : Host.Outcome State Fault Refusal :=
  .next (s.writeE a s.ghAcc)

/-! The functions the commands compute together -/

/-- The CT blocks of GHASH: an empty CT is one all-zero block (42_ghash.md R171, 90_conflicts.md C5). -/
def ctBlocks (ct : List Byte) : List (List Byte) :=
  if ct.length = 0 then [List.replicate 16 0] else pad16 ct

/-- GHASH(H, AD, CT) (42_ghash.md R171). -/
def ghash (h : Elem) (ad ct : List Byte) : Elem :=
  horner h 0 (pad16 ad ++ ctBlocks ct ++ [lenBlock (8 * ad.length) (8 * ct.length)])

/-- Tag(H, EY0, AD, CT) as a block (42_ghash.md R172). -/
def gcmTag (h ey0 : Elem) (ad ct : List Byte) : List Byte := elemToBlock (ghash h ad ct ^^^ ey0)

end Sys2Proof.Machine
end

