-- ==== Sys2Proof/Machine/Polynomial.lean ====
section
/-! DEFINITION. The polynomial commands (41_polynomial.md). Checks stand before any write (R140), in the order of
60_exceptions.md R206. -/

namespace Sys2Proof.Machine

/-- PADD (41_polynomial.md R146). -/
def execPadd (a b c : PReg) (s : State) : Host.Outcome State Fault Refusal :=
  .next (s.writeP a (padd (s.readP b) (s.readP c)))

/-- The product of two nonzero polynomials would be longer than PMAXLEN (41_polynomial.md R147). -/
def productTooLong (p q : Poly) (pmaxlen : Nat) : Bool :=
  !isZero p && !isZero q && decide (p.length + q.length - 1 > pmaxlen)

/-- PMUL (41_polynomial.md R147): CapacityExceeded where a product of nonzero operands does not fit. -/
def execPmul (a b c : PReg) (s : State) : Host.Outcome State Fault Refusal :=
  if productTooLong (s.readP b) (s.readP c) s.params.pmaxlen then
    raise .capacityExceeded (.pmul a b c) s
  else .next (s.writeP a (pmul (s.readP b) (s.readP c)))

/-- PDIV (41_polynomial.md R148): the quotient; DivisionByZero for the zero polynomial. -/
def execPdiv (a b c : PReg) (s : State) : Host.Outcome State Fault Refusal :=
  if isZero (s.readP c) then raise .divisionByZero (.pdiv a b c) s
  else .next (s.writeP a (pdivmod (s.readP b) (s.readP c)).1)

/-- PMOD (41_polynomial.md R149): the remainder; DivisionByZero for the zero polynomial. -/
def execPmod (a b c : PReg) (s : State) : Host.Outcome State Fault Refusal :=
  if isZero (s.readP c) then raise .divisionByZero (.pmod a b c) s
  else .next (s.writeP a (pdivmod (s.readP b) (s.readP c)).2)

/-- PGCD (41_polynomial.md R150): DivisionByZero where both operands are zero. -/
def execPgcd (a b c : PReg) (s : State) : Host.Outcome State Fault Refusal :=
  if isZero (s.readP b) && isZero (s.readP c) then raise .divisionByZero (.pgcd a b c) s
  else .next (s.writeP a (pgcd (s.readP b) (s.readP c)))

/-- PMONIC (41_polynomial.md R151): DivisionByZero for the zero polynomial. -/
def execPmonic (a b : PReg) (s : State) : Host.Outcome State Fault Refusal :=
  if isZero (s.readP b) then raise .divisionByZero (.pmonic a b) s
  else .next (s.writeP a (pmonic (s.readP b)))

/-- PMOV (41_polynomial.md R152): P[a] <- P[b]. -/
def execPmov (a b : PReg) (s : State) : Host.Outcome State Fault Refusal :=
  .next (s.writeP a (s.readP b))

/-- PDEG (41_polynomial.md R153): RESULT, FEQ and FLT. -/
def execPdeg (b : PReg) (s : State) : Host.Outcome State Fault Refusal :=
  .next ((s.setResult ((s.readP b).length - 1)).setFlags (degFeq (s.readP b)) (degFlt (s.readP b)))

/-- PSETC (41_polynomial.md R154): CapacityExceeded at an index at or past PMAXLEN. -/
def execPsetc (a : PReg) (b : EReg) (imm : Nat) (s : State) : Host.Outcome State Fault Refusal :=
  if imm ≥ s.params.pmaxlen then raise .capacityExceeded (.psetc a b imm) s
  else .next (s.writeP a (setCoeff (s.readP a) imm (s.readE b)))

/-- PGETC (41_polynomial.md R155): 0 at and beyond the length. -/
def execPgetc (a : EReg) (b : PReg) (imm : Nat) (s : State) : Host.Outcome State Fault Refusal :=
  .next (s.writeE a (coeff (s.readP b) imm))

/-- PLD (41_polynomial.md R156): AddressError before CapacityExceeded; n = 0 reads nothing and gives [0]. -/
def execPld (a : PReg) (n blk : Nat) (s : State) : Host.Outcome State Fault Refusal :=
  if s.blocksInRange blk n then
    if n > s.params.pmaxlen then raise .capacityExceeded (.pld a n blk) s
    else .next (s.writeP a (s.readCoeffs blk n))
  else raise .addressError (.pld a n blk) s

/-- PST (41_polynomial.md R157): the interchange format, and RESULT the number of blocks. -/
def execPst (a : PReg) (blk : Nat) (s : State) : Host.Outcome State Fault Refusal :=
  if s.blocksInRange blk (interchangeLen (s.readP a)) then
    .next ((s.memWrite (blockAddr blk) (interchangeBytes (s.readP a))).setResult
      (interchangeLen (s.readP a)))
  else raise .addressError (.pst a blk) s

end Sys2Proof.Machine
end

