-- ==== Sys2Proof/Machine/Dispatch.lean ====
section
/-! DEFINITION. The effect of each command, one arm per constructor (30_encoding.md R85). The error gate stands
before decoding (60_exceptions.md R205), so in Machine/Issue.lean. -/

namespace Sys2Proof.Machine

def exec (i : Instr) (s : State) : Host.Outcome State Fault Refusal :=
  match i with
  | .nop => Sys2Proof.Machine.execNop s
  | .clrerr => Sys2Proof.Machine.execClrerr s
  | .fadd a b c => Sys2Proof.Machine.execFadd a b c s
  | .fmul a b c => Sys2Proof.Machine.execFmul a b c s
  | .fpow a b c => Sys2Proof.Machine.execFpow a b c s
  | .finv a b => Sys2Proof.Machine.execFinv a b s
  | .fdiv a b c => Sys2Proof.Machine.execFdiv a b c s
  | .fcmp b c => Sys2Proof.Machine.execFcmp b c s
  | .fmov a b => Sys2Proof.Machine.execFmov a b s
  | .fli a imm => Sys2Proof.Machine.execFli a imm s
  | .fldb a blk => Sys2Proof.Machine.execFldb a blk s
  | .fstb a blk => Sys2Proof.Machine.execFstb a blk s
  | .fldi a blk => Sys2Proof.Machine.execFldi a blk s
  | .fsti a blk => Sys2Proof.Machine.execFsti a blk s
  | .padd a b c => Sys2Proof.Machine.execPadd a b c s
  | .pmul a b c => Sys2Proof.Machine.execPmul a b c s
  | .pdiv a b c => Sys2Proof.Machine.execPdiv a b c s
  | .pmod a b c => Sys2Proof.Machine.execPmod a b c s
  | .pgcd a b c => Sys2Proof.Machine.execPgcd a b c s
  | .pmonic a b => Sys2Proof.Machine.execPmonic a b s
  | .pmov a b => Sys2Proof.Machine.execPmov a b s
  | .pdeg b => Sys2Proof.Machine.execPdeg b s
  | .psetc a b imm => Sys2Proof.Machine.execPsetc a b imm s
  | .pgetc a b imm => Sys2Proof.Machine.execPgetc a b imm s
  | .pld a n blk => Sys2Proof.Machine.execPld a n blk s
  | .pst a blk => Sys2Proof.Machine.execPst a blk s
  | .ginit b c => Sys2Proof.Machine.execGinit b c s
  | .gad n blk => Sys2Proof.Machine.execGad n blk s
  | .gct n blk => Sys2Proof.Machine.execGct n blk s
  | .gfin => Sys2Proof.Machine.execGfin s
  | .gtag a => Sys2Proof.Machine.execGtag a s
  | .grd a => Sys2Proof.Machine.execGrd a s

end Sys2Proof.Machine
end

