-- ==== Sys2Proof/Machine/Issue.lean ====
section
/-! DEFINITION. Issuing a command word: the error gate, decoding, the command's effect, and completion
(10_state.md R45, R46; 60_exceptions.md R204, R205; 30_encoding.md R89). -/

namespace Sys2Proof.Machine

/-- BUSY (10_state.md R46). -/
def State.busy (s : State) : Bool := s.running.isSome

/-- While ERR = 1 every word but exactly CLRERR is discarded (60_exceptions.md R205). -/
def State.gateDiscards (s : State) (w : CmdWord) : Bool := s.err && w != clrerrWord

/-- Execute the command word w: discarded by the gate without being decoded, or decoded and run, or illegal and
so IllegalCommand (60_exceptions.md R204, R205; 30_encoding.md R89). -/
def issue (w : CmdWord) (s : State) : Host.Outcome State Fault Refusal :=
  if s.gateDiscards w then .next s
  else
    match decode w with
    | .ok i => exec i s
    | .error _ => .next (s.enterError .illegalCommand w)

/-- The command is complete: BUSY <- 0 (10_state.md R45, 60_exceptions.md R204). -/
def complete : Host.Outcome State Fault Refusal → Host.Outcome State Fault Refusal
  | .next s => .next { s with running := none }
  | .fault r => .fault r
  | .refused r => .refused r

/-- The engine gets on. The command in execution has all its effects at once and completes (20_memory.md R70);
where there is none, a held word is taken and BUSY becomes 1 (70_reset_and_hazards.md R236); where there is none
of these the engine waits and nothing changes (60_exceptions.md R216). Under reset no command has an effect
(70_reset_and_hazards.md R230). -/
def engineTurn (s : State) : Host.Outcome State Fault Refusal :=
  if s.inReset then .next s
  else
    match s.running, s.held with
    | some w, _ => complete (issue w s)
    | none, some w => .next { s with running := some w, held := none }
    | none, none => .next s

end Sys2Proof.Machine
end

