-- ==== Sys2Proof/Machine/HostBus.lean ====
section
/-! DEFINITION. The host's register window (10_state.md R42 to R47; 20_memory.md R66; 70_reset_and_hazards.md
R230, R236, R237), and one transition of the whole machine. -/

namespace Sys2Proof.Machine

/-- The 2-bit value of GPHASE (10_state.md R40). -/
def Phase.code : Phase → BitVec 2
  | .idle => 0
  | .ad => 1
  | .ct => 2
  | .done => 3

/-- STATUS: from bit 31 down 18 reserved, FLT, FEQ, 2 reserved, GPHASE, ERRCODE, 2 reserved, ERR, BUSY
(10_state.md R42). While BUSY = 1 the other fields still hold their values from before the command (log 7). -/
def State.statusWord (s : State) : BitVec 32 :=
  0#18 ++ BitVec.ofBool s.flt ++ BitVec.ofBool s.feq ++ 0#2 ++ s.gphase.code ++ s.errCode ++ 0#2 ++
    BitVec.ofBool s.err ++ BitVec.ofBool s.busy

/-- PARAM: bit 31 is 0, then NP-1, NE-1, DMEM_BLOCKS, PMAXLEN (10_state.md R44). -/
def State.paramWord (s : State) : BitVec 32 :=
  0#1 ++ 15#4 ++ 15#4 ++ BitVec.ofNat 15 s.params.dmemBlocks ++ BitVec.ofNat 8 s.params.pmaxlen

/-- Offsets in the window (10_state.md R42). -/
def offCmd : Nat := 0x000
def offStatus : Nat := 0x004
def offResult : Nat := 0x008
def offErrcmd : Nat := 0x00C
def offParam : Nat := 0x010
def offDmem : Nat := 0x40000

/-- What a register reads as; CMD and the reserved offsets read 0 (10_state.md R42). -/
def State.readRegister (s : State) (off : Nat) : BitVec 32 :=
  if off = offStatus then s.statusWord
  else if off = offResult then s.result
  else if off = offErrcmd then s.errCmd
  else if off = offParam then s.paramWord
  else 0

/-- A 32-bit aligned access (10_state.md R47). -/
def wordAccess (size off : Nat) : Bool := decide (size = 4) && decide (off % 4 = 0)

/-- A host write to CMD: the word is taken and BUSY becomes 1, or the bus holds it while BUSY = 1 (10_state.md
R45, 70_reset_and_hazards.md R236). -/
def State.writeCmd (s : State) (w : CmdWord) : State :=
  if s.busy then { s with held := some w } else { s with running := some w }

/-- A host read. While BUSY = 1 only STATUS and PARAM may be read (70_reset_and_hazards.md R237; log 8). -/
def windowRead (size off : Nat) (s : State) : Host.Outcome State Fault Refusal :=
  if off < offDmem then
    if !wordAccess size off then .refused .registerAccessNotWord
    else if s.busy && off != offStatus && off != offParam then .refused .hostAccessWhileBusy
    else .next { s with response := some (.word (s.readRegister off)) }
  else if off < offDmem + s.params.dmemBytes then
    if size ≠ 1 then .refused .dmemAccessNotByte
    else if s.busy then .refused .hostAccessWhileBusy
    else .next { s with response := some (.byte (s.dmemByte (off - offDmem))) }
  else .refused .accessOutsideWindow

/-- A host write. While BUSY = 1 only CMD may be written (70_reset_and_hazards.md R237; log 8). A write to
STATUS, RESULT, ERRCMD, PARAM or a reserved offset is ignored (10_state.md R42). -/
def windowWrite (size off : Nat) (data : CmdWord) (s : State) : Host.Outcome State Fault Refusal :=
  if off < offDmem then
    if !wordAccess size off then .refused .registerAccessNotWord
    else if off = offCmd then .next { s.writeCmd data with response := none }
    else if s.busy then .refused .hostAccessWhileBusy
    else .next { s with response := none }
  else if off < offDmem + s.params.dmemBytes then
    if size ≠ 1 then .refused .dmemAccessNotByte
    else if s.busy then .refused .hostAccessWhileBusy
    else
      .next { s with dmem := s.dmem.write (off - offDmem) (data.truncate 8), response := none }
  else .refused .accessOutsideWindow

/-- One access of the host, reset not being asserted and no write held. -/
def hostAccess : HostAccess → State → Host.Outcome State Fault Refusal
  | .read size off, s => windowRead size off s
  | .write size off data, s => windowWrite size off data s

/-- One transition of the machine: what `events` says happens next. An access under reset has no effect
(70_reset_and_hazards.md R230; log 11). An access behind a held CMD write waits on the bus while the engine gets
on (R236). With nothing more to come from outside, the engine gets on (log 4). -/
def advance (s : State) : Host.Outcome State Fault Refusal :=
  match s.events with
  | [] => engineTurn s
  | .engine :: es => engineTurn { s with events := es }
  | .assertReset :: es => .next ({ s with events := es }.takeReset)
  | .releaseReset :: es => .next { s with events := es, inReset := false }
  | .access a :: es =>
    if s.inReset then .next { s with events := es, response := none }
    else if s.held.isSome then engineTurn s
    else hostAccess a { s with events := es }

end Sys2Proof.Machine
end

