-- ==== Sys2Proof/Machine/Step.lean ====
section
/-! DEFINITION. The step, and placing a command where the next step fetches it. -/

namespace Sys2Proof.Machine

/-- One transition of the machine (Machine/HostBus.lean). -/
def step (s : State) : Host.Outcome State Fault Refusal := advance s

/-- The state in which the host's write of this word to CMD has just been taken (BUSY = 1, 10_state.md R45),
reset is not asserted, and the engine gets on before anything else happens, so that the very next step runs the
word (log 3). -/
def State.withFetchWord (s : State) (nbits w : Nat) : State :=
  { s with running := some (tableWord nbits w), inReset := false, events := .engine :: s.events }

end Sys2Proof.Machine
end

