-- ==== Sys2Proof/Laws/State.lean ====
section
/-! SUPPORT. What each field of State is after each named update, all true by rfl, so that no later proof unfolds
an update; and what the registers and DMEM read after an update that does not touch them. -/

namespace Sys2Proof.Machine

variable (s : State)

/-! writeE -/

@[simp] theorem State.writeE_e (r : EReg) (v : Elem) : (s.writeE r v).e = s.e.set r.val v r.isLt := rfl
@[simp] theorem State.writeE_p (r : EReg) (v : Elem) : (s.writeE r v).p = s.p := rfl
@[simp] theorem State.writeE_feq (r : EReg) (v : Elem) : (s.writeE r v).feq = s.feq := rfl
@[simp] theorem State.writeE_flt (r : EReg) (v : Elem) : (s.writeE r v).flt = s.flt := rfl
@[simp] theorem State.writeE_result (r : EReg) (v : Elem) : (s.writeE r v).result = s.result := rfl
@[simp] theorem State.writeE_ghH (r : EReg) (v : Elem) : (s.writeE r v).ghH = s.ghH := rfl
@[simp] theorem State.writeE_ghEy0 (r : EReg) (v : Elem) : (s.writeE r v).ghEy0 = s.ghEy0 := rfl
@[simp] theorem State.writeE_ghAcc (r : EReg) (v : Elem) : (s.writeE r v).ghAcc = s.ghAcc := rfl
@[simp] theorem State.writeE_ghAdBits (r : EReg) (v : Elem) : (s.writeE r v).ghAdBits = s.ghAdBits := rfl
@[simp] theorem State.writeE_ghCtBits (r : EReg) (v : Elem) : (s.writeE r v).ghCtBits = s.ghCtBits := rfl
@[simp] theorem State.writeE_gphase (r : EReg) (v : Elem) : (s.writeE r v).gphase = s.gphase := rfl
@[simp] theorem State.writeE_err (r : EReg) (v : Elem) : (s.writeE r v).err = s.err := rfl
@[simp] theorem State.writeE_errCode (r : EReg) (v : Elem) : (s.writeE r v).errCode = s.errCode := rfl
@[simp] theorem State.writeE_errCmd (r : EReg) (v : Elem) : (s.writeE r v).errCmd = s.errCmd := rfl
@[simp] theorem State.writeE_dmem (r : EReg) (v : Elem) : (s.writeE r v).dmem = s.dmem := rfl
@[simp] theorem State.writeE_params (r : EReg) (v : Elem) : (s.writeE r v).params = s.params := rfl
@[simp] theorem State.writeE_running (r : EReg) (v : Elem) : (s.writeE r v).running = s.running := rfl
@[simp] theorem State.writeE_held (r : EReg) (v : Elem) : (s.writeE r v).held = s.held := rfl
@[simp] theorem State.writeE_inReset (r : EReg) (v : Elem) : (s.writeE r v).inReset = s.inReset := rfl
@[simp] theorem State.writeE_events (r : EReg) (v : Elem) : (s.writeE r v).events = s.events := rfl
@[simp] theorem State.writeE_response (r : EReg) (v : Elem) : (s.writeE r v).response = s.response := rfl
@[simp] theorem State.writeE_resets (r : EReg) (v : Elem) : (s.writeE r v).resets = s.resets := rfl
@[simp] theorem State.writeE_readP (r : EReg) (v : Elem) (x : PReg) : (s.writeE r v).readP x = s.readP x := rfl
@[simp] theorem State.writeE_dmemByte (r : EReg) (v : Elem) (adr : Nat) : (s.writeE r v).dmemByte adr = s.dmemByte adr := rfl
@[simp] theorem State.writeE_memRead (r : EReg) (v : Elem) (adr n : Nat) : (s.writeE r v).memRead adr n = s.memRead adr n := rfl

/-! writeP -/

@[simp] theorem State.writeP_e (r : PReg) (q : List Elem) : (s.writeP r q).e = s.e := rfl
@[simp] theorem State.writeP_p (r : PReg) (q : List Elem) : (s.writeP r q).p = s.p.set r.val (strip q) r.isLt := rfl
@[simp] theorem State.writeP_feq (r : PReg) (q : List Elem) : (s.writeP r q).feq = s.feq := rfl
@[simp] theorem State.writeP_flt (r : PReg) (q : List Elem) : (s.writeP r q).flt = s.flt := rfl
@[simp] theorem State.writeP_result (r : PReg) (q : List Elem) : (s.writeP r q).result = s.result := rfl
@[simp] theorem State.writeP_ghH (r : PReg) (q : List Elem) : (s.writeP r q).ghH = s.ghH := rfl
@[simp] theorem State.writeP_ghEy0 (r : PReg) (q : List Elem) : (s.writeP r q).ghEy0 = s.ghEy0 := rfl
@[simp] theorem State.writeP_ghAcc (r : PReg) (q : List Elem) : (s.writeP r q).ghAcc = s.ghAcc := rfl
@[simp] theorem State.writeP_ghAdBits (r : PReg) (q : List Elem) : (s.writeP r q).ghAdBits = s.ghAdBits := rfl
@[simp] theorem State.writeP_ghCtBits (r : PReg) (q : List Elem) : (s.writeP r q).ghCtBits = s.ghCtBits := rfl
@[simp] theorem State.writeP_gphase (r : PReg) (q : List Elem) : (s.writeP r q).gphase = s.gphase := rfl
@[simp] theorem State.writeP_err (r : PReg) (q : List Elem) : (s.writeP r q).err = s.err := rfl
@[simp] theorem State.writeP_errCode (r : PReg) (q : List Elem) : (s.writeP r q).errCode = s.errCode := rfl
@[simp] theorem State.writeP_errCmd (r : PReg) (q : List Elem) : (s.writeP r q).errCmd = s.errCmd := rfl
@[simp] theorem State.writeP_dmem (r : PReg) (q : List Elem) : (s.writeP r q).dmem = s.dmem := rfl
@[simp] theorem State.writeP_params (r : PReg) (q : List Elem) : (s.writeP r q).params = s.params := rfl
@[simp] theorem State.writeP_running (r : PReg) (q : List Elem) : (s.writeP r q).running = s.running := rfl
@[simp] theorem State.writeP_held (r : PReg) (q : List Elem) : (s.writeP r q).held = s.held := rfl
@[simp] theorem State.writeP_inReset (r : PReg) (q : List Elem) : (s.writeP r q).inReset = s.inReset := rfl
@[simp] theorem State.writeP_events (r : PReg) (q : List Elem) : (s.writeP r q).events = s.events := rfl
@[simp] theorem State.writeP_response (r : PReg) (q : List Elem) : (s.writeP r q).response = s.response := rfl
@[simp] theorem State.writeP_resets (r : PReg) (q : List Elem) : (s.writeP r q).resets = s.resets := rfl
@[simp] theorem State.writeP_readE (r : PReg) (q : List Elem) (x : EReg) : (s.writeP r q).readE x = s.readE x := rfl
@[simp] theorem State.writeP_dmemByte (r : PReg) (q : List Elem) (adr : Nat) : (s.writeP r q).dmemByte adr = s.dmemByte adr := rfl
@[simp] theorem State.writeP_memRead (r : PReg) (q : List Elem) (adr n : Nat) : (s.writeP r q).memRead adr n = s.memRead adr n := rfl

/-! setFlags -/

@[simp] theorem State.setFlags_e (x y : Bool) : (s.setFlags x y).e = s.e := rfl
@[simp] theorem State.setFlags_p (x y : Bool) : (s.setFlags x y).p = s.p := rfl
@[simp] theorem State.setFlags_feq (x y : Bool) : (s.setFlags x y).feq = x := rfl
@[simp] theorem State.setFlags_flt (x y : Bool) : (s.setFlags x y).flt = y := rfl
@[simp] theorem State.setFlags_result (x y : Bool) : (s.setFlags x y).result = s.result := rfl
@[simp] theorem State.setFlags_ghH (x y : Bool) : (s.setFlags x y).ghH = s.ghH := rfl
@[simp] theorem State.setFlags_ghEy0 (x y : Bool) : (s.setFlags x y).ghEy0 = s.ghEy0 := rfl
@[simp] theorem State.setFlags_ghAcc (x y : Bool) : (s.setFlags x y).ghAcc = s.ghAcc := rfl
@[simp] theorem State.setFlags_ghAdBits (x y : Bool) : (s.setFlags x y).ghAdBits = s.ghAdBits := rfl
@[simp] theorem State.setFlags_ghCtBits (x y : Bool) : (s.setFlags x y).ghCtBits = s.ghCtBits := rfl
@[simp] theorem State.setFlags_gphase (x y : Bool) : (s.setFlags x y).gphase = s.gphase := rfl
@[simp] theorem State.setFlags_err (x y : Bool) : (s.setFlags x y).err = s.err := rfl
@[simp] theorem State.setFlags_errCode (x y : Bool) : (s.setFlags x y).errCode = s.errCode := rfl
@[simp] theorem State.setFlags_errCmd (x y : Bool) : (s.setFlags x y).errCmd = s.errCmd := rfl
@[simp] theorem State.setFlags_dmem (x y : Bool) : (s.setFlags x y).dmem = s.dmem := rfl
@[simp] theorem State.setFlags_params (x y : Bool) : (s.setFlags x y).params = s.params := rfl
@[simp] theorem State.setFlags_running (x y : Bool) : (s.setFlags x y).running = s.running := rfl
@[simp] theorem State.setFlags_held (x y : Bool) : (s.setFlags x y).held = s.held := rfl
@[simp] theorem State.setFlags_inReset (x y : Bool) : (s.setFlags x y).inReset = s.inReset := rfl
@[simp] theorem State.setFlags_events (x y : Bool) : (s.setFlags x y).events = s.events := rfl
@[simp] theorem State.setFlags_response (x y : Bool) : (s.setFlags x y).response = s.response := rfl
@[simp] theorem State.setFlags_resets (x y : Bool) : (s.setFlags x y).resets = s.resets := rfl
@[simp] theorem State.setFlags_readE (x y : Bool) (r : EReg) : (s.setFlags x y).readE r = s.readE r := rfl
@[simp] theorem State.setFlags_readP (x y : Bool) (r : PReg) : (s.setFlags x y).readP r = s.readP r := rfl
@[simp] theorem State.setFlags_dmemByte (x y : Bool) (adr : Nat) : (s.setFlags x y).dmemByte adr = s.dmemByte adr := rfl
@[simp] theorem State.setFlags_memRead (x y : Bool) (adr n : Nat) : (s.setFlags x y).memRead adr n = s.memRead adr n := rfl

/-! setResult -/

@[simp] theorem State.setResult_e (v : Nat) : (s.setResult v).e = s.e := rfl
@[simp] theorem State.setResult_p (v : Nat) : (s.setResult v).p = s.p := rfl
@[simp] theorem State.setResult_feq (v : Nat) : (s.setResult v).feq = s.feq := rfl
@[simp] theorem State.setResult_flt (v : Nat) : (s.setResult v).flt = s.flt := rfl
@[simp] theorem State.setResult_result (v : Nat) : (s.setResult v).result = BitVec.ofNat 32 v := rfl
@[simp] theorem State.setResult_ghH (v : Nat) : (s.setResult v).ghH = s.ghH := rfl
@[simp] theorem State.setResult_ghEy0 (v : Nat) : (s.setResult v).ghEy0 = s.ghEy0 := rfl
@[simp] theorem State.setResult_ghAcc (v : Nat) : (s.setResult v).ghAcc = s.ghAcc := rfl
@[simp] theorem State.setResult_ghAdBits (v : Nat) : (s.setResult v).ghAdBits = s.ghAdBits := rfl
@[simp] theorem State.setResult_ghCtBits (v : Nat) : (s.setResult v).ghCtBits = s.ghCtBits := rfl
@[simp] theorem State.setResult_gphase (v : Nat) : (s.setResult v).gphase = s.gphase := rfl
@[simp] theorem State.setResult_err (v : Nat) : (s.setResult v).err = s.err := rfl
@[simp] theorem State.setResult_errCode (v : Nat) : (s.setResult v).errCode = s.errCode := rfl
@[simp] theorem State.setResult_errCmd (v : Nat) : (s.setResult v).errCmd = s.errCmd := rfl
@[simp] theorem State.setResult_dmem (v : Nat) : (s.setResult v).dmem = s.dmem := rfl
@[simp] theorem State.setResult_params (v : Nat) : (s.setResult v).params = s.params := rfl
@[simp] theorem State.setResult_running (v : Nat) : (s.setResult v).running = s.running := rfl
@[simp] theorem State.setResult_held (v : Nat) : (s.setResult v).held = s.held := rfl
@[simp] theorem State.setResult_inReset (v : Nat) : (s.setResult v).inReset = s.inReset := rfl
@[simp] theorem State.setResult_events (v : Nat) : (s.setResult v).events = s.events := rfl
@[simp] theorem State.setResult_response (v : Nat) : (s.setResult v).response = s.response := rfl
@[simp] theorem State.setResult_resets (v : Nat) : (s.setResult v).resets = s.resets := rfl
@[simp] theorem State.setResult_readE (v : Nat) (x : EReg) : (s.setResult v).readE x = s.readE x := rfl
@[simp] theorem State.setResult_readP (v : Nat) (x : PReg) : (s.setResult v).readP x = s.readP x := rfl
@[simp] theorem State.setResult_dmemByte (v : Nat) (adr : Nat) : (s.setResult v).dmemByte adr = s.dmemByte adr := rfl
@[simp] theorem State.setResult_memRead (v : Nat) (adr n : Nat) : (s.setResult v).memRead adr n = s.memRead adr n := rfl

/-! startMessage -/

@[simp] theorem State.startMessage_e (h y : Elem) : (s.startMessage h y).e = s.e := rfl
@[simp] theorem State.startMessage_p (h y : Elem) : (s.startMessage h y).p = s.p := rfl
@[simp] theorem State.startMessage_feq (h y : Elem) : (s.startMessage h y).feq = s.feq := rfl
@[simp] theorem State.startMessage_flt (h y : Elem) : (s.startMessage h y).flt = s.flt := rfl
@[simp] theorem State.startMessage_result (h y : Elem) : (s.startMessage h y).result = s.result := rfl
@[simp] theorem State.startMessage_ghH (h y : Elem) : (s.startMessage h y).ghH = h := rfl
@[simp] theorem State.startMessage_ghEy0 (h y : Elem) : (s.startMessage h y).ghEy0 = y := rfl
@[simp] theorem State.startMessage_ghAcc (h y : Elem) : (s.startMessage h y).ghAcc = 0 := rfl
@[simp] theorem State.startMessage_ghAdBits (h y : Elem) : (s.startMessage h y).ghAdBits = 0 := rfl
@[simp] theorem State.startMessage_ghCtBits (h y : Elem) : (s.startMessage h y).ghCtBits = 0 := rfl
@[simp] theorem State.startMessage_gphase (h y : Elem) : (s.startMessage h y).gphase = .ad := rfl
@[simp] theorem State.startMessage_err (h y : Elem) : (s.startMessage h y).err = s.err := rfl
@[simp] theorem State.startMessage_errCode (h y : Elem) : (s.startMessage h y).errCode = s.errCode := rfl
@[simp] theorem State.startMessage_errCmd (h y : Elem) : (s.startMessage h y).errCmd = s.errCmd := rfl
@[simp] theorem State.startMessage_dmem (h y : Elem) : (s.startMessage h y).dmem = s.dmem := rfl
@[simp] theorem State.startMessage_params (h y : Elem) : (s.startMessage h y).params = s.params := rfl
@[simp] theorem State.startMessage_running (h y : Elem) : (s.startMessage h y).running = s.running := rfl
@[simp] theorem State.startMessage_held (h y : Elem) : (s.startMessage h y).held = s.held := rfl
@[simp] theorem State.startMessage_inReset (h y : Elem) : (s.startMessage h y).inReset = s.inReset := rfl
@[simp] theorem State.startMessage_events (h y : Elem) : (s.startMessage h y).events = s.events := rfl
@[simp] theorem State.startMessage_response (h y : Elem) : (s.startMessage h y).response = s.response := rfl
@[simp] theorem State.startMessage_resets (h y : Elem) : (s.startMessage h y).resets = s.resets := rfl
@[simp] theorem State.startMessage_readE (h y : Elem) (x : EReg) : (s.startMessage h y).readE x = s.readE x := rfl
@[simp] theorem State.startMessage_readP (h y : Elem) (x : PReg) : (s.startMessage h y).readP x = s.readP x := rfl
@[simp] theorem State.startMessage_dmemByte (h y : Elem) (adr : Nat) : (s.startMessage h y).dmemByte adr = s.dmemByte adr := rfl
@[simp] theorem State.startMessage_memRead (h y : Elem) (adr n : Nat) : (s.startMessage h y).memRead adr n = s.memRead adr n := rfl

/-! setAcc -/

@[simp] theorem State.setAcc_e (v : Elem) : (s.setAcc v).e = s.e := rfl
@[simp] theorem State.setAcc_p (v : Elem) : (s.setAcc v).p = s.p := rfl
@[simp] theorem State.setAcc_feq (v : Elem) : (s.setAcc v).feq = s.feq := rfl
@[simp] theorem State.setAcc_flt (v : Elem) : (s.setAcc v).flt = s.flt := rfl
@[simp] theorem State.setAcc_result (v : Elem) : (s.setAcc v).result = s.result := rfl
@[simp] theorem State.setAcc_ghH (v : Elem) : (s.setAcc v).ghH = s.ghH := rfl
@[simp] theorem State.setAcc_ghEy0 (v : Elem) : (s.setAcc v).ghEy0 = s.ghEy0 := rfl
@[simp] theorem State.setAcc_ghAcc (v : Elem) : (s.setAcc v).ghAcc = v := rfl
@[simp] theorem State.setAcc_ghAdBits (v : Elem) : (s.setAcc v).ghAdBits = s.ghAdBits := rfl
@[simp] theorem State.setAcc_ghCtBits (v : Elem) : (s.setAcc v).ghCtBits = s.ghCtBits := rfl
@[simp] theorem State.setAcc_gphase (v : Elem) : (s.setAcc v).gphase = s.gphase := rfl
@[simp] theorem State.setAcc_err (v : Elem) : (s.setAcc v).err = s.err := rfl
@[simp] theorem State.setAcc_errCode (v : Elem) : (s.setAcc v).errCode = s.errCode := rfl
@[simp] theorem State.setAcc_errCmd (v : Elem) : (s.setAcc v).errCmd = s.errCmd := rfl
@[simp] theorem State.setAcc_dmem (v : Elem) : (s.setAcc v).dmem = s.dmem := rfl
@[simp] theorem State.setAcc_params (v : Elem) : (s.setAcc v).params = s.params := rfl
@[simp] theorem State.setAcc_running (v : Elem) : (s.setAcc v).running = s.running := rfl
@[simp] theorem State.setAcc_held (v : Elem) : (s.setAcc v).held = s.held := rfl
@[simp] theorem State.setAcc_inReset (v : Elem) : (s.setAcc v).inReset = s.inReset := rfl
@[simp] theorem State.setAcc_events (v : Elem) : (s.setAcc v).events = s.events := rfl
@[simp] theorem State.setAcc_response (v : Elem) : (s.setAcc v).response = s.response := rfl
@[simp] theorem State.setAcc_resets (v : Elem) : (s.setAcc v).resets = s.resets := rfl
@[simp] theorem State.setAcc_readE (v : Elem) (x : EReg) : (s.setAcc v).readE x = s.readE x := rfl
@[simp] theorem State.setAcc_readP (v : Elem) (x : PReg) : (s.setAcc v).readP x = s.readP x := rfl
@[simp] theorem State.setAcc_dmemByte (v : Elem) (adr : Nat) : (s.setAcc v).dmemByte adr = s.dmemByte adr := rfl
@[simp] theorem State.setAcc_memRead (v : Elem) (adr n : Nat) : (s.setAcc v).memRead adr n = s.memRead adr n := rfl

/-! addAdBits -/

@[simp] theorem State.addAdBits_e (k : Nat) : (s.addAdBits k).e = s.e := rfl
@[simp] theorem State.addAdBits_p (k : Nat) : (s.addAdBits k).p = s.p := rfl
@[simp] theorem State.addAdBits_feq (k : Nat) : (s.addAdBits k).feq = s.feq := rfl
@[simp] theorem State.addAdBits_flt (k : Nat) : (s.addAdBits k).flt = s.flt := rfl
@[simp] theorem State.addAdBits_result (k : Nat) : (s.addAdBits k).result = s.result := rfl
@[simp] theorem State.addAdBits_ghH (k : Nat) : (s.addAdBits k).ghH = s.ghH := rfl
@[simp] theorem State.addAdBits_ghEy0 (k : Nat) : (s.addAdBits k).ghEy0 = s.ghEy0 := rfl
@[simp] theorem State.addAdBits_ghAcc (k : Nat) : (s.addAdBits k).ghAcc = s.ghAcc := rfl
@[simp] theorem State.addAdBits_ghAdBits (k : Nat) : (s.addAdBits k).ghAdBits = s.ghAdBits + BitVec.ofNat 64 k := rfl
@[simp] theorem State.addAdBits_ghCtBits (k : Nat) : (s.addAdBits k).ghCtBits = s.ghCtBits := rfl
@[simp] theorem State.addAdBits_gphase (k : Nat) : (s.addAdBits k).gphase = s.gphase := rfl
@[simp] theorem State.addAdBits_err (k : Nat) : (s.addAdBits k).err = s.err := rfl
@[simp] theorem State.addAdBits_errCode (k : Nat) : (s.addAdBits k).errCode = s.errCode := rfl
@[simp] theorem State.addAdBits_errCmd (k : Nat) : (s.addAdBits k).errCmd = s.errCmd := rfl
@[simp] theorem State.addAdBits_dmem (k : Nat) : (s.addAdBits k).dmem = s.dmem := rfl
@[simp] theorem State.addAdBits_params (k : Nat) : (s.addAdBits k).params = s.params := rfl
@[simp] theorem State.addAdBits_running (k : Nat) : (s.addAdBits k).running = s.running := rfl
@[simp] theorem State.addAdBits_held (k : Nat) : (s.addAdBits k).held = s.held := rfl
@[simp] theorem State.addAdBits_inReset (k : Nat) : (s.addAdBits k).inReset = s.inReset := rfl
@[simp] theorem State.addAdBits_events (k : Nat) : (s.addAdBits k).events = s.events := rfl
@[simp] theorem State.addAdBits_response (k : Nat) : (s.addAdBits k).response = s.response := rfl
@[simp] theorem State.addAdBits_resets (k : Nat) : (s.addAdBits k).resets = s.resets := rfl
@[simp] theorem State.addAdBits_readE (k : Nat) (x : EReg) : (s.addAdBits k).readE x = s.readE x := rfl
@[simp] theorem State.addAdBits_readP (k : Nat) (x : PReg) : (s.addAdBits k).readP x = s.readP x := rfl
@[simp] theorem State.addAdBits_dmemByte (k : Nat) (adr : Nat) : (s.addAdBits k).dmemByte adr = s.dmemByte adr := rfl
@[simp] theorem State.addAdBits_memRead (k : Nat) (adr n : Nat) : (s.addAdBits k).memRead adr n = s.memRead adr n := rfl

/-! addCtBits -/

@[simp] theorem State.addCtBits_e (k : Nat) : (s.addCtBits k).e = s.e := rfl
@[simp] theorem State.addCtBits_p (k : Nat) : (s.addCtBits k).p = s.p := rfl
@[simp] theorem State.addCtBits_feq (k : Nat) : (s.addCtBits k).feq = s.feq := rfl
@[simp] theorem State.addCtBits_flt (k : Nat) : (s.addCtBits k).flt = s.flt := rfl
@[simp] theorem State.addCtBits_result (k : Nat) : (s.addCtBits k).result = s.result := rfl
@[simp] theorem State.addCtBits_ghH (k : Nat) : (s.addCtBits k).ghH = s.ghH := rfl
@[simp] theorem State.addCtBits_ghEy0 (k : Nat) : (s.addCtBits k).ghEy0 = s.ghEy0 := rfl
@[simp] theorem State.addCtBits_ghAcc (k : Nat) : (s.addCtBits k).ghAcc = s.ghAcc := rfl
@[simp] theorem State.addCtBits_ghAdBits (k : Nat) : (s.addCtBits k).ghAdBits = s.ghAdBits := rfl
@[simp] theorem State.addCtBits_ghCtBits (k : Nat) : (s.addCtBits k).ghCtBits = s.ghCtBits + BitVec.ofNat 64 k := rfl
@[simp] theorem State.addCtBits_gphase (k : Nat) : (s.addCtBits k).gphase = s.gphase := rfl
@[simp] theorem State.addCtBits_err (k : Nat) : (s.addCtBits k).err = s.err := rfl
@[simp] theorem State.addCtBits_errCode (k : Nat) : (s.addCtBits k).errCode = s.errCode := rfl
@[simp] theorem State.addCtBits_errCmd (k : Nat) : (s.addCtBits k).errCmd = s.errCmd := rfl
@[simp] theorem State.addCtBits_dmem (k : Nat) : (s.addCtBits k).dmem = s.dmem := rfl
@[simp] theorem State.addCtBits_params (k : Nat) : (s.addCtBits k).params = s.params := rfl
@[simp] theorem State.addCtBits_running (k : Nat) : (s.addCtBits k).running = s.running := rfl
@[simp] theorem State.addCtBits_held (k : Nat) : (s.addCtBits k).held = s.held := rfl
@[simp] theorem State.addCtBits_inReset (k : Nat) : (s.addCtBits k).inReset = s.inReset := rfl
@[simp] theorem State.addCtBits_events (k : Nat) : (s.addCtBits k).events = s.events := rfl
@[simp] theorem State.addCtBits_response (k : Nat) : (s.addCtBits k).response = s.response := rfl
@[simp] theorem State.addCtBits_resets (k : Nat) : (s.addCtBits k).resets = s.resets := rfl
@[simp] theorem State.addCtBits_readE (k : Nat) (x : EReg) : (s.addCtBits k).readE x = s.readE x := rfl
@[simp] theorem State.addCtBits_readP (k : Nat) (x : PReg) : (s.addCtBits k).readP x = s.readP x := rfl
@[simp] theorem State.addCtBits_dmemByte (k : Nat) (adr : Nat) : (s.addCtBits k).dmemByte adr = s.dmemByte adr := rfl
@[simp] theorem State.addCtBits_memRead (k : Nat) (adr n : Nat) : (s.addCtBits k).memRead adr n = s.memRead adr n := rfl

/-! setPhase -/

@[simp] theorem State.setPhase_e (ph : Phase) : (s.setPhase ph).e = s.e := rfl
@[simp] theorem State.setPhase_p (ph : Phase) : (s.setPhase ph).p = s.p := rfl
@[simp] theorem State.setPhase_feq (ph : Phase) : (s.setPhase ph).feq = s.feq := rfl
@[simp] theorem State.setPhase_flt (ph : Phase) : (s.setPhase ph).flt = s.flt := rfl
@[simp] theorem State.setPhase_result (ph : Phase) : (s.setPhase ph).result = s.result := rfl
@[simp] theorem State.setPhase_ghH (ph : Phase) : (s.setPhase ph).ghH = s.ghH := rfl
@[simp] theorem State.setPhase_ghEy0 (ph : Phase) : (s.setPhase ph).ghEy0 = s.ghEy0 := rfl
@[simp] theorem State.setPhase_ghAcc (ph : Phase) : (s.setPhase ph).ghAcc = s.ghAcc := rfl
@[simp] theorem State.setPhase_ghAdBits (ph : Phase) : (s.setPhase ph).ghAdBits = s.ghAdBits := rfl
@[simp] theorem State.setPhase_ghCtBits (ph : Phase) : (s.setPhase ph).ghCtBits = s.ghCtBits := rfl
@[simp] theorem State.setPhase_gphase (ph : Phase) : (s.setPhase ph).gphase = ph := rfl
@[simp] theorem State.setPhase_err (ph : Phase) : (s.setPhase ph).err = s.err := rfl
@[simp] theorem State.setPhase_errCode (ph : Phase) : (s.setPhase ph).errCode = s.errCode := rfl
@[simp] theorem State.setPhase_errCmd (ph : Phase) : (s.setPhase ph).errCmd = s.errCmd := rfl
@[simp] theorem State.setPhase_dmem (ph : Phase) : (s.setPhase ph).dmem = s.dmem := rfl
@[simp] theorem State.setPhase_params (ph : Phase) : (s.setPhase ph).params = s.params := rfl
@[simp] theorem State.setPhase_running (ph : Phase) : (s.setPhase ph).running = s.running := rfl
@[simp] theorem State.setPhase_held (ph : Phase) : (s.setPhase ph).held = s.held := rfl
@[simp] theorem State.setPhase_inReset (ph : Phase) : (s.setPhase ph).inReset = s.inReset := rfl
@[simp] theorem State.setPhase_events (ph : Phase) : (s.setPhase ph).events = s.events := rfl
@[simp] theorem State.setPhase_response (ph : Phase) : (s.setPhase ph).response = s.response := rfl
@[simp] theorem State.setPhase_resets (ph : Phase) : (s.setPhase ph).resets = s.resets := rfl
@[simp] theorem State.setPhase_readE (ph : Phase) (x : EReg) : (s.setPhase ph).readE x = s.readE x := rfl
@[simp] theorem State.setPhase_readP (ph : Phase) (x : PReg) : (s.setPhase ph).readP x = s.readP x := rfl
@[simp] theorem State.setPhase_dmemByte (ph : Phase) (adr : Nat) : (s.setPhase ph).dmemByte adr = s.dmemByte adr := rfl
@[simp] theorem State.setPhase_memRead (ph : Phase) (adr n : Nat) : (s.setPhase ph).memRead adr n = s.memRead adr n := rfl

/-! memWrite -/

@[simp] theorem State.memWrite_e (x : Nat) (bs : List Byte) : (s.memWrite x bs).e = s.e := rfl
@[simp] theorem State.memWrite_p (x : Nat) (bs : List Byte) : (s.memWrite x bs).p = s.p := rfl
@[simp] theorem State.memWrite_feq (x : Nat) (bs : List Byte) : (s.memWrite x bs).feq = s.feq := rfl
@[simp] theorem State.memWrite_flt (x : Nat) (bs : List Byte) : (s.memWrite x bs).flt = s.flt := rfl
@[simp] theorem State.memWrite_result (x : Nat) (bs : List Byte) : (s.memWrite x bs).result = s.result := rfl
@[simp] theorem State.memWrite_ghH (x : Nat) (bs : List Byte) : (s.memWrite x bs).ghH = s.ghH := rfl
@[simp] theorem State.memWrite_ghEy0 (x : Nat) (bs : List Byte) : (s.memWrite x bs).ghEy0 = s.ghEy0 := rfl
@[simp] theorem State.memWrite_ghAcc (x : Nat) (bs : List Byte) : (s.memWrite x bs).ghAcc = s.ghAcc := rfl
@[simp] theorem State.memWrite_ghAdBits (x : Nat) (bs : List Byte) : (s.memWrite x bs).ghAdBits = s.ghAdBits := rfl
@[simp] theorem State.memWrite_ghCtBits (x : Nat) (bs : List Byte) : (s.memWrite x bs).ghCtBits = s.ghCtBits := rfl
@[simp] theorem State.memWrite_gphase (x : Nat) (bs : List Byte) : (s.memWrite x bs).gphase = s.gphase := rfl
@[simp] theorem State.memWrite_err (x : Nat) (bs : List Byte) : (s.memWrite x bs).err = s.err := rfl
@[simp] theorem State.memWrite_errCode (x : Nat) (bs : List Byte) : (s.memWrite x bs).errCode = s.errCode := rfl
@[simp] theorem State.memWrite_errCmd (x : Nat) (bs : List Byte) : (s.memWrite x bs).errCmd = s.errCmd := rfl
@[simp] theorem State.memWrite_dmem (x : Nat) (bs : List Byte) : (s.memWrite x bs).dmem = s.dmem.writeBytes x bs := rfl
@[simp] theorem State.memWrite_params (x : Nat) (bs : List Byte) : (s.memWrite x bs).params = s.params := rfl
@[simp] theorem State.memWrite_running (x : Nat) (bs : List Byte) : (s.memWrite x bs).running = s.running := rfl
@[simp] theorem State.memWrite_held (x : Nat) (bs : List Byte) : (s.memWrite x bs).held = s.held := rfl
@[simp] theorem State.memWrite_inReset (x : Nat) (bs : List Byte) : (s.memWrite x bs).inReset = s.inReset := rfl
@[simp] theorem State.memWrite_events (x : Nat) (bs : List Byte) : (s.memWrite x bs).events = s.events := rfl
@[simp] theorem State.memWrite_response (x : Nat) (bs : List Byte) : (s.memWrite x bs).response = s.response := rfl
@[simp] theorem State.memWrite_resets (x : Nat) (bs : List Byte) : (s.memWrite x bs).resets = s.resets := rfl
@[simp] theorem State.memWrite_readE (x : Nat) (bs : List Byte) (r : EReg) : (s.memWrite x bs).readE r = s.readE r := rfl
@[simp] theorem State.memWrite_readP (x : Nat) (bs : List Byte) (r : PReg) : (s.memWrite x bs).readP r = s.readP r := rfl

/-! enterError -/

@[simp] theorem State.enterError_e (k : ErrKind) (w : CmdWord) : (s.enterError k w).e = s.e := rfl
@[simp] theorem State.enterError_p (k : ErrKind) (w : CmdWord) : (s.enterError k w).p = s.p := rfl
@[simp] theorem State.enterError_feq (k : ErrKind) (w : CmdWord) : (s.enterError k w).feq = s.feq := rfl
@[simp] theorem State.enterError_flt (k : ErrKind) (w : CmdWord) : (s.enterError k w).flt = s.flt := rfl
@[simp] theorem State.enterError_result (k : ErrKind) (w : CmdWord) : (s.enterError k w).result = s.result := rfl
@[simp] theorem State.enterError_ghH (k : ErrKind) (w : CmdWord) : (s.enterError k w).ghH = s.ghH := rfl
@[simp] theorem State.enterError_ghEy0 (k : ErrKind) (w : CmdWord) : (s.enterError k w).ghEy0 = s.ghEy0 := rfl
@[simp] theorem State.enterError_ghAcc (k : ErrKind) (w : CmdWord) : (s.enterError k w).ghAcc = s.ghAcc := rfl
@[simp] theorem State.enterError_ghAdBits (k : ErrKind) (w : CmdWord) : (s.enterError k w).ghAdBits = s.ghAdBits := rfl
@[simp] theorem State.enterError_ghCtBits (k : ErrKind) (w : CmdWord) : (s.enterError k w).ghCtBits = s.ghCtBits := rfl
@[simp] theorem State.enterError_gphase (k : ErrKind) (w : CmdWord) : (s.enterError k w).gphase = s.gphase := rfl
@[simp] theorem State.enterError_err (k : ErrKind) (w : CmdWord) : (s.enterError k w).err = true := rfl
@[simp] theorem State.enterError_errCode (k : ErrKind) (w : CmdWord) : (s.enterError k w).errCode = k.code := rfl
@[simp] theorem State.enterError_errCmd (k : ErrKind) (w : CmdWord) : (s.enterError k w).errCmd = w := rfl
@[simp] theorem State.enterError_dmem (k : ErrKind) (w : CmdWord) : (s.enterError k w).dmem = s.dmem := rfl
@[simp] theorem State.enterError_params (k : ErrKind) (w : CmdWord) : (s.enterError k w).params = s.params := rfl
@[simp] theorem State.enterError_running (k : ErrKind) (w : CmdWord) : (s.enterError k w).running = s.running := rfl
@[simp] theorem State.enterError_held (k : ErrKind) (w : CmdWord) : (s.enterError k w).held = s.held := rfl
@[simp] theorem State.enterError_inReset (k : ErrKind) (w : CmdWord) : (s.enterError k w).inReset = s.inReset := rfl
@[simp] theorem State.enterError_events (k : ErrKind) (w : CmdWord) : (s.enterError k w).events = s.events := rfl
@[simp] theorem State.enterError_response (k : ErrKind) (w : CmdWord) : (s.enterError k w).response = s.response := rfl
@[simp] theorem State.enterError_resets (k : ErrKind) (w : CmdWord) : (s.enterError k w).resets = s.resets := rfl
@[simp] theorem State.enterError_readE (k : ErrKind) (w : CmdWord) (x : EReg) : (s.enterError k w).readE x = s.readE x := rfl
@[simp] theorem State.enterError_readP (k : ErrKind) (w : CmdWord) (x : PReg) : (s.enterError k w).readP x = s.readP x := rfl
@[simp] theorem State.enterError_dmemByte (k : ErrKind) (w : CmdWord) (adr : Nat) : (s.enterError k w).dmemByte adr = s.dmemByte adr := rfl
@[simp] theorem State.enterError_memRead (k : ErrKind) (w : CmdWord) (adr n : Nat) : (s.enterError k w).memRead adr n = s.memRead adr n := rfl

/-! clearError -/

@[simp] theorem State.clearError_e : (s.clearError).e = s.e := rfl
@[simp] theorem State.clearError_p : (s.clearError).p = s.p := rfl
@[simp] theorem State.clearError_feq : (s.clearError).feq = s.feq := rfl
@[simp] theorem State.clearError_flt : (s.clearError).flt = s.flt := rfl
@[simp] theorem State.clearError_result : (s.clearError).result = s.result := rfl
@[simp] theorem State.clearError_ghH : (s.clearError).ghH = s.ghH := rfl
@[simp] theorem State.clearError_ghEy0 : (s.clearError).ghEy0 = s.ghEy0 := rfl
@[simp] theorem State.clearError_ghAcc : (s.clearError).ghAcc = s.ghAcc := rfl
@[simp] theorem State.clearError_ghAdBits : (s.clearError).ghAdBits = s.ghAdBits := rfl
@[simp] theorem State.clearError_ghCtBits : (s.clearError).ghCtBits = s.ghCtBits := rfl
@[simp] theorem State.clearError_gphase : (s.clearError).gphase = s.gphase := rfl
@[simp] theorem State.clearError_err : (s.clearError).err = false := rfl
@[simp] theorem State.clearError_errCode : (s.clearError).errCode = 0 := rfl
@[simp] theorem State.clearError_errCmd : (s.clearError).errCmd = 0 := rfl
@[simp] theorem State.clearError_dmem : (s.clearError).dmem = s.dmem := rfl
@[simp] theorem State.clearError_params : (s.clearError).params = s.params := rfl
@[simp] theorem State.clearError_running : (s.clearError).running = s.running := rfl
@[simp] theorem State.clearError_held : (s.clearError).held = s.held := rfl
@[simp] theorem State.clearError_inReset : (s.clearError).inReset = s.inReset := rfl
@[simp] theorem State.clearError_events : (s.clearError).events = s.events := rfl
@[simp] theorem State.clearError_response : (s.clearError).response = s.response := rfl
@[simp] theorem State.clearError_resets : (s.clearError).resets = s.resets := rfl
@[simp] theorem State.clearError_readE (x : EReg) : (s.clearError).readE x = s.readE x := rfl
@[simp] theorem State.clearError_readP (x : PReg) : (s.clearError).readP x = s.readP x := rfl
@[simp] theorem State.clearError_dmemByte (adr : Nat) : (s.clearError).dmemByte adr = s.dmemByte adr := rfl
@[simp] theorem State.clearError_memRead (adr n : Nat) : (s.clearError).memRead adr n = s.memRead adr n := rfl

/-! takeReset -/

@[simp] theorem State.takeReset_e : (s.takeReset).e = State.reset.e := rfl
@[simp] theorem State.takeReset_p : (s.takeReset).p = State.reset.p := rfl
@[simp] theorem State.takeReset_feq : (s.takeReset).feq = State.reset.feq := rfl
@[simp] theorem State.takeReset_flt : (s.takeReset).flt = State.reset.flt := rfl
@[simp] theorem State.takeReset_result : (s.takeReset).result = State.reset.result := rfl
@[simp] theorem State.takeReset_ghH : (s.takeReset).ghH = State.reset.ghH := rfl
@[simp] theorem State.takeReset_ghEy0 : (s.takeReset).ghEy0 = State.reset.ghEy0 := rfl
@[simp] theorem State.takeReset_ghAcc : (s.takeReset).ghAcc = State.reset.ghAcc := rfl
@[simp] theorem State.takeReset_ghAdBits : (s.takeReset).ghAdBits = State.reset.ghAdBits := rfl
@[simp] theorem State.takeReset_ghCtBits : (s.takeReset).ghCtBits = State.reset.ghCtBits := rfl
@[simp] theorem State.takeReset_gphase : (s.takeReset).gphase = State.reset.gphase := rfl
@[simp] theorem State.takeReset_err : (s.takeReset).err = State.reset.err := rfl
@[simp] theorem State.takeReset_errCode : (s.takeReset).errCode = State.reset.errCode := rfl
@[simp] theorem State.takeReset_errCmd : (s.takeReset).errCmd = State.reset.errCmd := rfl
@[simp] theorem State.takeReset_dmem : (s.takeReset).dmem = State.reset.dmem := rfl
@[simp] theorem State.takeReset_params : (s.takeReset).params = s.params := rfl
@[simp] theorem State.takeReset_running : (s.takeReset).running = State.reset.running := rfl
@[simp] theorem State.takeReset_held : (s.takeReset).held = State.reset.held := rfl
@[simp] theorem State.takeReset_inReset : (s.takeReset).inReset = true := rfl
@[simp] theorem State.takeReset_events : (s.takeReset).events = s.events := rfl
@[simp] theorem State.takeReset_response : (s.takeReset).response = State.reset.response := rfl
@[simp] theorem State.takeReset_resets : (s.takeReset).resets = s.resets + 1 := rfl

end Sys2Proof.Machine
end

