-- ==== Sys2Proof/Laws/Ops.lean ====
section
/-! SUPPORT. What the shared operations do, said once: registers after a write, DMEM after a write and its
canonical form, polynomials after stripping, and every way a transition can go. -/

namespace Sys2Proof.Machine

/-! Registers -/

theorem State.readE_writeE (s : State) (a r : EReg) (v : Elem) :
    (s.writeE a v).readE r = if a = r then v else s.readE r := by
  simp only [State.readE, State.writeE, Vector.get_eq_getElem, Vector.getElem_set, Fin.ext_iff]

@[simp] theorem State.readE_writeE_same (s : State) (a : EReg) (v : Elem) :
    (s.writeE a v).readE a = v := by simp [State.readE_writeE]

theorem State.readE_writeE_other (s : State) {a r : EReg} (v : Elem) (h : r ≠ a) :
    (s.writeE a v).readE r = s.readE r := by simp [State.readE_writeE, Ne.symm h]

theorem State.readP_writeP (s : State) (a r : PReg) (q : List Elem) :
    (s.writeP a q).readP r = if a = r then strip q else s.readP r := by
  simp only [State.readP, State.writeP, Vector.get_eq_getElem, Vector.getElem_set, Fin.ext_iff]

@[simp] theorem State.readP_writeP_same (s : State) (a : PReg) (q : List Elem) :
    (s.writeP a q).readP a = strip q := by simp [State.readP_writeP]

theorem State.readP_writeP_other (s : State) {a r : PReg} (q : List Elem) (h : r ≠ a) :
    (s.writeP a q).readP r = s.readP r := by simp [State.readP_writeP, Ne.symm h]

/-! DMEM -/

theorem Memory.lookup_write (m : Memory) (x y : Nat) (v : Byte) :
    (m.write x v).lookup y = if x = y then some v else m.lookup y := by
  induction m with
  | nil => simp [Memory.write, Memory.lookup]
  | cons c m ih =>
    obtain ⟨a, b⟩ := c
    simp only [Memory.write]
    split
    · simp [Memory.lookup]
    · split
      · rename_i h
        subst h
        by_cases hy : a = y <;> simp [Memory.lookup, hy]
      · rename_i h
        by_cases hy : a = y
        · have hx : x ≠ y := fun hxy => h (hy.trans hxy.symm)
          simp [Memory.lookup, hy, hx]
        · simp [Memory.lookup, hy, ih]

theorem Memory.lookup_writeBytes (bs : List Byte) (m : Memory) (x y : Nat) :
    (m.writeBytes x bs).lookup y =
      if x ≤ y ∧ y < x + bs.length then some (bs.getD (y - x) 0) else m.lookup y := by
  induction bs generalizing m x with
  | nil => simp [Memory.writeBytes]
  | cons v vs ih =>
    rw [Memory.writeBytes, ih, Memory.lookup_write]
    by_cases hxy : x = y
    · subst hxy; simp
    · by_cases h : x + 1 ≤ y ∧ y < x + 1 + vs.length
      · obtain ⟨k, hk⟩ : ∃ k, y - x = k + 1 := ⟨y - x - 1, by omega⟩
        have hk' : y - (x + 1) = k := by omega
        have h' : x ≤ y ∧ y < x + (v :: vs).length := by
          simp only [List.length_cons]; omega
        rw [if_pos h, if_pos h', hk, hk']
        simp
      · have h' : ¬ (x ≤ y ∧ y < x + (v :: vs).length) := by
          simp only [List.length_cons]; omega
        rw [if_neg h, if_neg h', if_neg hxy]

theorem State.dmemByte_memWrite (s : State) (x y : Nat) (bs : List Byte) :
    (s.memWrite x bs).dmemByte y =
      if x ≤ y ∧ y < x + bs.length then bs.getD (y - x) 0 else s.dmemByte y := by
  simp only [State.dmemByte, State.memWrite_dmem, State.memWrite_resets, Memory.lookup_writeBytes]
  split <;> rfl

theorem Memory.mem_write {m : Memory} {x : Nat} {v : Byte} {c : Host.Cell} (h : c ∈ m.write x v) :
    c = (x, v) ∨ c ∈ m := by
  induction m with
  | nil => simpa [Memory.write] using h
  | cons d m ih =>
    obtain ⟨a, b⟩ := d
    simp only [Memory.write] at h
    split at h
    · simpa using h
    · split at h
      · rcases List.mem_cons.1 h with h | h
        · exact .inl h
        · exact .inr (List.mem_cons_of_mem _ h)
      · rcases List.mem_cons.1 h with h | h
        · exact .inr (h ▸ List.mem_cons_self)
        · exact (ih h).imp id (List.mem_cons_of_mem _)

theorem Memory.wf_write {m : Memory} (h : m.wf) (x : Nat) (v : Byte) : (m.write x v).wf := by
  induction m with
  | nil => simp [Memory.write, Memory.wf]
  | cons c m ih =>
    obtain ⟨a, b⟩ := c
    simp only [Memory.wf, List.map_cons, List.pairwise_cons] at h
    simp only [Memory.write]
    split
    · rename_i hx
      simp only [Memory.wf, List.map_cons, List.pairwise_cons, List.mem_cons]
      refine ⟨?_, h⟩
      rintro y (rfl | hy)
      · exact hx
      · exact lt_trans hx (h.1 y hy)
    · split
      · rename_i hax
        subst hax
        exact List.pairwise_cons.2 h
      · rename_i hx hax
        simp only [Memory.wf, List.map_cons, List.pairwise_cons]
        refine ⟨fun y hy => ?_, ih h.2⟩
        obtain ⟨c, hc, rfl⟩ := List.mem_map.1 hy
        rcases Memory.mem_write hc with rfl | hc
        · exact lt_of_le_of_ne (not_lt.1 hx) hax
        · exact h.1 _ (List.mem_map_of_mem hc)

theorem Memory.wf_writeBytes (bs : List Byte) {m : Memory} (h : m.wf) (x : Nat) :
    (m.writeBytes x bs).wf := by
  induction bs generalizing m x with
  | nil => exact h
  | cons v vs ih => exact ih (Memory.wf_write h x v) (x + 1)

theorem Memory.mem_writeBytes (bs : List Byte) {m : Memory} {x : Nat} {c : Host.Cell}
    (h : c ∈ m.writeBytes x bs) : (x ≤ c.1 ∧ c.1 < x + bs.length) ∨ c ∈ m := by
  induction bs generalizing m x with
  | nil => exact .inr h
  | cons v vs ih =>
    rcases ih h with h | h
    · left; simp only [List.length_cons]; omega
    · rcases Memory.mem_write h with rfl | h
      · left; simp
      · exact .inr h

theorem reset_memory_wf : State.reset.dmem.wf := List.Pairwise.nil

@[simp] theorem State.memRead_length (s : State) (x n : Nat) : (s.memRead x n).length = n := by
  simp [State.memRead]

@[simp] theorem beBytes_length (n v : Nat) : (beBytes n v).length = n := by simp [beBytes]

@[simp] theorem elemToBlock_length (x : Elem) : (elemToBlock x).length = 16 := beBytes_length 16 _

@[simp] theorem elemToInt_length (x : Elem) : (elemToInt x).length = 16 := beBytes_length 16 _

theorem interchangeBytes_length (p : Poly) : (interchangeBytes p).length = 16 * interchangeLen p := by
  unfold interchangeBytes interchangeLen
  split
  · rfl
  · rw [List.length_flatMap]; simp [Nat.mul_comm]

/-! Polynomials -/

theorem strip_ne_nil (l : List Elem) : strip l ≠ [] := by
  unfold strip
  split <;> simp

theorem strip_length_le (l : List Elem) : (strip l).length ≤ max l.length 1 := by
  have h := (List.dropWhile_sublist (fun x : Elem => x == 0) (l := l.reverse)).length_le
  unfold strip
  split
  · simp
  · rename_i c cs heq
    rw [heq] at h
    simp only [List.length_reverse, List.length_cons] at h ⊢
    omega

theorem canonical_strip (l : List Elem) : canonical (strip l) = true := by
  unfold strip
  split
  · rfl
  · rename_i c cs heq
    have hc : c ≠ 0 := by
      have := List.head?_dropWhile_not (fun x : Elem => x == 0) l.reverse
      rw [heq] at this
      simpa using this
    have hl : lead (c :: cs).reverse = c := by simp [lead]
    unfold canonical
    rw [hl]
    rcases cs with _ | ⟨d, ds⟩
    · rfl
    · have hc' : ¬c = 0#128 := hc
      simp [hc']

theorem strip_eq_self {p : Poly} (h : canonical p = true) : strip p = p := by
  rcases List.eq_nil_or_concat p with rfl | ⟨q, c, rfl⟩
  · simp [canonical] at h
  · unfold strip canonical at *
    by_cases hc : c = 0
    · subst hc
      have hq : q = [] := by
        simp [lead] at h
        exact h
      subst hq
      simp
    · have hc' : (c == 0#128) = false := beq_false_of_ne hc
      simp [hc']

/-! Transitions -/

theorem issue_discarded {s : State} {w : CmdWord} (h : s.gateDiscards w = true) : issue w s = .next s := by
  simp [issue, h]

theorem issue_legal {s : State} {w : CmdWord} {i : Instr} (h : s.gateDiscards w = false)
    (hd : decode w = .ok i) : issue w s = exec i s := by simp [issue, h, hd]

theorem issue_illegal {s : State} {w : CmdWord} {x : DecodeError} (h : s.gateDiscards w = false)
    (hd : decode w = .error x) : issue w s = .next (s.enterError .illegalCommand w) := by
  simp [issue, h, hd]

/-- Everything issuing a word can do. -/
theorem issue_cases (w : CmdWord) (s : State) :
    (s.gateDiscards w = true ∧ issue w s = .next s) ∨
    (∃ i, s.gateDiscards w = false ∧ decode w = .ok i ∧ issue w s = exec i s) ∨
    (∃ x, s.gateDiscards w = false ∧ decode w = .error x ∧
      issue w s = .next (s.enterError .illegalCommand w)) := by
  by_cases h : s.gateDiscards w = true
  · exact .inl ⟨h, issue_discarded h⟩
  · have h : s.gateDiscards w = false := by simpa using h
    cases hd : decode w with
    | ok i => exact .inr (.inl ⟨i, h, rfl, issue_legal h hd⟩)
    | error x => exact .inr (.inr ⟨x, h, rfl, issue_illegal h hd⟩)

theorem complete_eq_next {o : Host.Outcome State Fault Refusal} {t : State} (h : complete o = .next t) :
    ∃ u, o = .next u ∧ t = { u with running := none } := by
  cases o with
  | next u => exact ⟨u, rfl, by simpa [complete] using h.symm⟩
  | fault r => simp [complete] at h
  | refused r => simp [complete] at h

/-- Everything an engine turn can do. -/
theorem engineTurn_cases (s : State) :
    (s.inReset = true ∧ engineTurn s = .next s) ∨
    (∃ w, s.inReset = false ∧ s.running = some w ∧ engineTurn s = complete (issue w s)) ∨
    (∃ w, s.inReset = false ∧ s.running = none ∧ s.held = some w ∧
      engineTurn s = .next { s with running := some w, held := none }) ∨
    (s.inReset = false ∧ s.running = none ∧ s.held = none ∧ engineTurn s = .next s) := by
  unfold engineTurn
  by_cases hr : s.inReset = true
  · exact .inl ⟨hr, by simp [hr]⟩
  · have hr : s.inReset = false := by simpa using hr
    cases hw : s.running with
    | some w => exact .inr (.inl ⟨w, hr, rfl, by simp [hr]⟩)
    | none =>
      cases hh : s.held with
      | some w => exact .inr (.inr (.inl ⟨w, hr, rfl, rfl, by simp [hr]⟩))
      | none => exact .inr (.inr (.inr ⟨hr, rfl, rfl, by simp [hr]⟩))

/-- What a host read that answers leaves: only the response is new. -/
theorem windowRead_next {size off : Nat} {s t : State} (h : windowRead size off s = .next t) :
    ∃ r, t = { s with response := some r } := by
  unfold windowRead at h
  repeat' split at h
  all_goals first | cases h; exact ⟨_, rfl⟩ | cases h

/-- What a host write that is taken leaves: a word for CMD, a byte in DMEM, or nothing but the empty response. -/
theorem windowWrite_next {size off : Nat} {data : CmdWord} {s t : State}
    (h : windowWrite size off data s = .next t) :
    (off = offCmd ∧ t = { s.writeCmd data with response := none }) ∨
    (t = { s with response := none }) ∨
    (offDmem ≤ off ∧ off < offDmem + s.params.dmemBytes ∧
      t = { s with dmem := s.dmem.write (off - offDmem) (data.truncate 8), response := none }) := by
  unfold windowWrite at h
  split at h
  · split at h
    · cases h
    · split at h
      · rename_i hoff; cases h; exact .inl ⟨hoff, rfl⟩
      · split at h
        · cases h
        · cases h; exact .inr (.inl rfl)
  · rename_i hlo
    split at h
    · rename_i hhi
      split at h
      · cases h
      · split at h
        · cases h
        · cases h; exact .inr (.inr ⟨not_lt.1 hlo, hhi, rfl⟩)
    · cases h

/-- What a CMD write leaves: the word running or held, everything else the same. -/
theorem State.writeCmd_cases (s : State) (w : CmdWord) :
    (s.busy = true ∧ s.writeCmd w = { s with held := some w }) ∨
    (s.busy = false ∧ s.writeCmd w = { s with running := some w }) := by
  unfold State.writeCmd
  cases h : s.busy <;> simp

/-- Everything a transition can do, by what comes next from outside. -/
theorem advance_cases (s : State) :
    (s.events = [] ∧ advance s = engineTurn s) ∨
    (∃ es, s.events = .engine :: es ∧ advance s = engineTurn { s with events := es }) ∨
    (∃ es, s.events = .assertReset :: es ∧ advance s = .next ({ s with events := es }.takeReset)) ∨
    (∃ es, s.events = .releaseReset :: es ∧ advance s = .next { s with events := es, inReset := false }) ∨
    (∃ a es, s.events = .access a :: es ∧ s.inReset = true ∧
      advance s = .next { s with events := es, response := none }) ∨
    (∃ a es, s.events = .access a :: es ∧ s.inReset = false ∧ s.held.isSome = true ∧
      advance s = engineTurn s) ∨
    (∃ a es, s.events = .access a :: es ∧ s.inReset = false ∧ s.held = none ∧
      advance s = hostAccess a { s with events := es }) := by
  unfold advance
  cases hev : s.events with
  | nil => simp
  | cons ev es =>
    cases ev with
    | engine => simp
    | assertReset => simp
    | releaseReset => simp
    | access a =>
      by_cases hr : s.inReset = true
      · simp [hr]
      · have hr : s.inReset = false := by simpa using hr
        cases hh : s.held <;> simp [hr]

end Sys2Proof.Machine
end

