-- ==== Sys2Proof/Laws/PerInstr.lean ====
section
/-! SUPPORT. The per-instruction family EncodesItsRow: the encoder writes a word of the instruction's own row of
30_encoding.md R85, fixed bits and must-be-zero bits included. -/

namespace Sys2Proof

/-! The opcode and the fixed bits of each format -/

theorem opcodeOf_wordR (op : BitVec 6) (a b c : Fin 16) : opcodeOf (wordR op a b c) = op.toNat := by
  unfold opcodeOf wordR place
  congr 1
  apply BitVec.eq_of_getLsbD_eq
  intro i hi
  interval_cases i <;> simp

theorem opcodeOf_wordI (op : BitVec 6) (a b : Fin 16) (imm : Nat) : opcodeOf (wordI op a b imm) = op.toNat := by
  unfold opcodeOf wordI place
  congr 1
  apply BitVec.eq_of_getLsbD_eq
  intro i hi
  interval_cases i <;> simp

theorem opcodeOf_wordM (op : BitVec 6) (a : Fin 16) (n blk : Nat) : opcodeOf (wordM op a n blk) = op.toNat := by
  unfold opcodeOf wordM place
  congr 1
  apply BitVec.eq_of_getLsbD_eq
  intro i hi
  interval_cases i <;> simp

theorem opcodeOf_wordN (op : BitVec 6) : opcodeOf (wordN op) = op.toNat := by
  unfold opcodeOf wordN place
  congr 1
  apply BitVec.eq_of_getLsbD_eq
  intro i hi
  interval_cases i <;> simp

theorem wordR_abc (op : BitVec 6) (a b c : Fin 16) :
    wordR op a b c &&& 0xFC003FFF = place op 26 := by
  apply BitVec.eq_of_getLsbD_eq
  intro i hi
  unfold wordR place
  interval_cases i <;> simp

theorem wordR_ab (op : BitVec 6) (a b : Fin 16) :
    wordR op a b 0 &&& 0xFC03FFFF = place op 26 := by
  apply BitVec.eq_of_getLsbD_eq
  intro i hi
  unfold wordR place
  interval_cases i <;> simp

theorem wordR_bc (op : BitVec 6) (b c : Fin 16) :
    wordR op 0 b c &&& 0xFFC03FFF = place op 26 := by
  apply BitVec.eq_of_getLsbD_eq
  intro i hi
  unfold wordR place
  interval_cases i <;> simp

theorem wordR_b (op : BitVec 6) (b : Fin 16) :
    wordR op 0 b 0 &&& 0xFFC3FFFF = place op 26 := by
  apply BitVec.eq_of_getLsbD_eq
  intro i hi
  unfold wordR place
  interval_cases i <;> simp

theorem wordR_a (op : BitVec 6) (a : Fin 16) :
    wordR op a 0 0 &&& 0xFC3FFFFF = place op 26 := by
  apply BitVec.eq_of_getLsbD_eq
  intro i hi
  unfold wordR place
  interval_cases i <;> simp

theorem wordI_ab (op : BitVec 6) (a b : Fin 16) (imm : Nat) :
    wordI op a b imm &&& 0xFC03C000 = place op 26 := by
  apply BitVec.eq_of_getLsbD_eq
  intro i hi
  unfold wordI place
  interval_cases i <;> simp

theorem wordI_a (op : BitVec 6) (a : Fin 16) (imm : Nat) :
    wordI op a 0 imm &&& 0xFC3FC000 = place op 26 := by
  apply BitVec.eq_of_getLsbD_eq
  intro i hi
  unfold wordI place
  interval_cases i <;> simp

theorem wordM_an (op : BitVec 6) (a : Fin 16) (n blk : Nat) :
    wordM op a n blk &&& 0xFC000000 = place op 26 := by
  apply BitVec.eq_of_getLsbD_eq
  intro i hi
  unfold wordM place
  interval_cases i <;> simp

theorem wordM_a (op : BitVec 6) (a : Fin 16) (blk : Nat) :
    wordM op a 0 blk &&& 0xFC3FC000 = place op 26 := by
  apply BitVec.eq_of_getLsbD_eq
  intro i hi
  unfold wordM place
  interval_cases i <;> simp

theorem wordM_n (op : BitVec 6) (n blk : Nat) :
    wordM op 0 n blk &&& 0xFFC00000 = place op 26 := by
  apply BitVec.eq_of_getLsbD_eq
  intro i hi
  unfold wordM place
  interval_cases i <;> simp

theorem wordN_all (op : BitVec 6) :
    wordN op &&& 0xFFFFFFFF = place op 26 := by
  apply BitVec.eq_of_getLsbD_eq
  intro i hi
  unfold wordN place
  interval_cases i <;> simp

end Sys2Proof

namespace Sys2Proof.Laws.EncodesItsRow

/-- The word of the instruction has a row, and agrees with the row's pattern under the row's mask. -/
def Statement (i : Instr) : Prop :=
  ∃ r, opRowOf (opcodeOf (encode i)) = some r ∧ encode i &&& r.mask = r.pattern

theorem nop : Statement .nop :=
  ⟨_, (congrArg opRowOf (opcodeOf_wordN 0x00)).trans rfl, (wordN_all 0x00).trans (by decide)⟩

theorem clrerr : Statement .clrerr :=
  ⟨_, (congrArg opRowOf (opcodeOf_wordN 0x01)).trans rfl, (wordN_all 0x01).trans (by decide)⟩

theorem fadd (a b c : EReg) : Statement (.fadd a b c) :=
  ⟨_, (congrArg opRowOf (opcodeOf_wordR 0x08 _ _ _)).trans rfl, (wordR_abc 0x08 a b c).trans (by decide)⟩

theorem fmul (a b c : EReg) : Statement (.fmul a b c) :=
  ⟨_, (congrArg opRowOf (opcodeOf_wordR 0x09 _ _ _)).trans rfl, (wordR_abc 0x09 a b c).trans (by decide)⟩

theorem fpow (a b c : EReg) : Statement (.fpow a b c) :=
  ⟨_, (congrArg opRowOf (opcodeOf_wordR 0x0A _ _ _)).trans rfl, (wordR_abc 0x0A a b c).trans (by decide)⟩

theorem finv (a b : EReg) : Statement (.finv a b) :=
  ⟨_, (congrArg opRowOf (opcodeOf_wordR 0x0B _ _ _)).trans rfl, (wordR_ab 0x0B a b).trans (by decide)⟩

theorem fdiv (a b c : EReg) : Statement (.fdiv a b c) :=
  ⟨_, (congrArg opRowOf (opcodeOf_wordR 0x0C _ _ _)).trans rfl, (wordR_abc 0x0C a b c).trans (by decide)⟩

theorem fcmp (b c : EReg) : Statement (.fcmp b c) :=
  ⟨_, (congrArg opRowOf (opcodeOf_wordR 0x0D _ _ _)).trans rfl, (wordR_bc 0x0D b c).trans (by decide)⟩

theorem fmov (a b : EReg) : Statement (.fmov a b) :=
  ⟨_, (congrArg opRowOf (opcodeOf_wordR 0x0E _ _ _)).trans rfl, (wordR_ab 0x0E a b).trans (by decide)⟩

theorem fli (a : EReg) (imm : Nat) : Statement (.fli a imm) :=
  ⟨_, (congrArg opRowOf (opcodeOf_wordI 0x0F _ _ _)).trans rfl, (wordI_a 0x0F a imm).trans (by decide)⟩

theorem fldb (a : EReg) (blk : Nat) : Statement (.fldb a blk) :=
  ⟨_, (congrArg opRowOf (opcodeOf_wordM 0x10 _ _ _)).trans rfl, (wordM_a 0x10 a blk).trans (by decide)⟩

theorem fstb (a : EReg) (blk : Nat) : Statement (.fstb a blk) :=
  ⟨_, (congrArg opRowOf (opcodeOf_wordM 0x11 _ _ _)).trans rfl, (wordM_a 0x11 a blk).trans (by decide)⟩

theorem fldi (a : EReg) (blk : Nat) : Statement (.fldi a blk) :=
  ⟨_, (congrArg opRowOf (opcodeOf_wordM 0x12 _ _ _)).trans rfl, (wordM_a 0x12 a blk).trans (by decide)⟩

theorem fsti (a : EReg) (blk : Nat) : Statement (.fsti a blk) :=
  ⟨_, (congrArg opRowOf (opcodeOf_wordM 0x13 _ _ _)).trans rfl, (wordM_a 0x13 a blk).trans (by decide)⟩

theorem padd (a b c : PReg) : Statement (.padd a b c) :=
  ⟨_, (congrArg opRowOf (opcodeOf_wordR 0x20 _ _ _)).trans rfl, (wordR_abc 0x20 a b c).trans (by decide)⟩

theorem pmul (a b c : PReg) : Statement (.pmul a b c) :=
  ⟨_, (congrArg opRowOf (opcodeOf_wordR 0x21 _ _ _)).trans rfl, (wordR_abc 0x21 a b c).trans (by decide)⟩

theorem pdiv (a b c : PReg) : Statement (.pdiv a b c) :=
  ⟨_, (congrArg opRowOf (opcodeOf_wordR 0x22 _ _ _)).trans rfl, (wordR_abc 0x22 a b c).trans (by decide)⟩

theorem pmod (a b c : PReg) : Statement (.pmod a b c) :=
  ⟨_, (congrArg opRowOf (opcodeOf_wordR 0x23 _ _ _)).trans rfl, (wordR_abc 0x23 a b c).trans (by decide)⟩

theorem pgcd (a b c : PReg) : Statement (.pgcd a b c) :=
  ⟨_, (congrArg opRowOf (opcodeOf_wordR 0x24 _ _ _)).trans rfl, (wordR_abc 0x24 a b c).trans (by decide)⟩

theorem pmonic (a b : PReg) : Statement (.pmonic a b) :=
  ⟨_, (congrArg opRowOf (opcodeOf_wordR 0x25 _ _ _)).trans rfl, (wordR_ab 0x25 a b).trans (by decide)⟩

theorem pmov (a b : PReg) : Statement (.pmov a b) :=
  ⟨_, (congrArg opRowOf (opcodeOf_wordR 0x26 _ _ _)).trans rfl, (wordR_ab 0x26 a b).trans (by decide)⟩

theorem pdeg (b : PReg) : Statement (.pdeg b) :=
  ⟨_, (congrArg opRowOf (opcodeOf_wordR 0x27 _ _ _)).trans rfl, (wordR_b 0x27 b).trans (by decide)⟩

theorem psetc (a : PReg) (b : EReg) (imm : Nat) : Statement (.psetc a b imm) :=
  ⟨_, (congrArg opRowOf (opcodeOf_wordI 0x28 _ _ _)).trans rfl, (wordI_ab 0x28 a b imm).trans (by decide)⟩

theorem pgetc (a : EReg) (b : PReg) (imm : Nat) : Statement (.pgetc a b imm) :=
  ⟨_, (congrArg opRowOf (opcodeOf_wordI 0x29 _ _ _)).trans rfl, (wordI_ab 0x29 a b imm).trans (by decide)⟩

theorem pld (a : PReg) (n blk : Nat) : Statement (.pld a n blk) :=
  ⟨_, (congrArg opRowOf (opcodeOf_wordM 0x2A _ _ _)).trans rfl, (wordM_an 0x2A a n blk).trans (by decide)⟩

theorem pst (a : PReg) (blk : Nat) : Statement (.pst a blk) :=
  ⟨_, (congrArg opRowOf (opcodeOf_wordM 0x2B _ _ _)).trans rfl, (wordM_a 0x2B a blk).trans (by decide)⟩

theorem ginit (b c : EReg) : Statement (.ginit b c) :=
  ⟨_, (congrArg opRowOf (opcodeOf_wordR 0x30 _ _ _)).trans rfl, (wordR_bc 0x30 b c).trans (by decide)⟩

theorem gad (n blk : Nat) : Statement (.gad n blk) :=
  ⟨_, (congrArg opRowOf (opcodeOf_wordM 0x31 _ _ _)).trans rfl, (wordM_n 0x31 n blk).trans (by decide)⟩

theorem gct (n blk : Nat) : Statement (.gct n blk) :=
  ⟨_, (congrArg opRowOf (opcodeOf_wordM 0x32 _ _ _)).trans rfl, (wordM_n 0x32 n blk).trans (by decide)⟩

theorem gfin : Statement .gfin :=
  ⟨_, (congrArg opRowOf (opcodeOf_wordN 0x33)).trans rfl, (wordN_all 0x33).trans (by decide)⟩

theorem gtag (a : EReg) : Statement (.gtag a) :=
  ⟨_, (congrArg opRowOf (opcodeOf_wordR 0x34 _ _ _)).trans rfl, (wordR_a 0x34 a).trans (by decide)⟩

theorem grd (a : EReg) : Statement (.grd a) :=
  ⟨_, (congrArg opRowOf (opcodeOf_wordR 0x35 _ _ _)).trans rfl, (wordR_a 0x35 a).trans (by decide)⟩

end Sys2Proof.Laws.EncodesItsRow
end

