-- ==== Sys2Proof/Machine/Assembler.lean ====
section
/-! DEFINITION. The assembler syntax, the pseudo-instructions and the disassembler (30_encoding.md R90, R91).
Lines are read as lists of characters. What the spec leaves open of the text (blanks, leading zeros, the letter
case of a hexadecimal number) is log 16. -/

namespace Sys2Proof.Machine

/-- An operand as it is written (30_encoding.md R90). -/
inductive Operand where
  | ereg (r : EReg)
  | preg (r : PReg)
  | num (v : Nat)
deriving DecidableEq, Repr

/-- The command with one operand list of the syntax column of 30_encoding.md R85, none where the operands are not
of that shape. -/
def assembleCore (mnemonic : String) (ops : List Operand) : Option Instr :=
  match ops with
  | [] =>
    if mnemonic = "NOP" then some .nop else if mnemonic = "CLRERR" then some .clrerr
    else if mnemonic = "GFIN" then some .gfin else none
  | [.ereg a] =>
    if mnemonic = "GTAG" then some (.gtag a) else if mnemonic = "GRD" then some (.grd a) else none
  | [.preg b] => if mnemonic = "PDEG" then some (.pdeg b) else none
  | [.ereg a, .ereg b] =>
    if mnemonic = "FINV" then some (.finv a b) else if mnemonic = "FMOV" then some (.fmov a b)
    else if mnemonic = "FCMP" then some (.fcmp a b) else if mnemonic = "GINIT" then some (.ginit a b)
    else none
  | [.preg a, .preg b] =>
    if mnemonic = "PMONIC" then some (.pmonic a b) else if mnemonic = "PMOV" then some (.pmov a b) else none
  | [.ereg a, .num v] =>
    if mnemonic = "FLI" then some (.fli a v) else if mnemonic = "FLDB" then some (.fldb a v)
    else if mnemonic = "FSTB" then some (.fstb a v) else if mnemonic = "FLDI" then some (.fldi a v)
    else if mnemonic = "FSTI" then some (.fsti a v) else none
  | [.preg a, .num v] => if mnemonic = "PST" then some (.pst a v) else none
  | [.num n, .num v] =>
    if mnemonic = "GAD" then some (.gad n v) else if mnemonic = "GCT" then some (.gct n v) else none
  | [.ereg a, .ereg b, .ereg c] =>
    if mnemonic = "FADD" then some (.fadd a b c) else if mnemonic = "FMUL" then some (.fmul a b c)
    else if mnemonic = "FPOW" then some (.fpow a b c) else if mnemonic = "FDIV" then some (.fdiv a b c)
    else none
  | [.preg a, .preg b, .preg c] =>
    if mnemonic = "PADD" then some (.padd a b c) else if mnemonic = "PMUL" then some (.pmul a b c)
    else if mnemonic = "PDIV" then some (.pdiv a b c) else if mnemonic = "PMOD" then some (.pmod a b c)
    else if mnemonic = "PGCD" then some (.pgcd a b c) else none
  | [.preg a, .ereg b, .num v] => if mnemonic = "PSETC" then some (.psetc a b v) else none
  | [.ereg a, .preg b, .num v] => if mnemonic = "PGETC" then some (.pgetc a b v) else none
  | [.preg a, .num n, .num v] => if mnemonic = "PLD" then some (.pld a n v) else none
  | _ => none

/-- The expansion of a pseudo-instruction (30_encoding.md R91), none where there is no such pseudo-instruction.
PDIVMOD is rejected unless pr is neither pb nor pc and pq differs from pr. -/
def expandPseudo (mnemonic : String) (ops : List Operand) : Option (List Instr) :=
  match ops with
  | [.ereg a, .ereg b, .ereg c] => if mnemonic = "FSUB" then some [.fadd a b c] else none
  | [.ereg a, .ereg b] =>
    if mnemonic = "FNEG" then some [.fmov a b] else if mnemonic = "FSQR" then some [.fmul a b b] else none
  | [.ereg a] =>
    if mnemonic = "FZERO" then some [.fli a 0] else if mnemonic = "FONE" then some [.fli a 1] else none
  | [.preg a, .preg b, .preg c] => if mnemonic = "PSUB" then some [.padd a b c] else none
  | [.preg a] => if mnemonic = "PZERO" then some [.pld a 0 0] else none
  | [.preg pq, .preg pr, .preg pb, .preg pc] =>
    if mnemonic = "PDIVMOD" ∧ pr ≠ pb ∧ pr ≠ pc ∧ pq ≠ pr then some [.pmod pr pb pc, .pdiv pq pb pc] else none
  | _ => none

/-- Assemble one command: a number outside its field is rejected, never truncated (30_encoding.md R90). -/
def assemble (mnemonic : String) (ops : List Operand) : Option (List CmdWord) :=
  let is := match assembleCore mnemonic ops with
    | some i => some [i]
    | none => expandPseudo mnemonic ops
  match is with
  | some l => if l.all Instr.wellFormed then some (l.map encode) else none
  | none => none

/-! Reading a line -/

/-- The value of a digit in base 10 or 16, letters in either case (DESIGN CHOICE, log 16). -/
def digitValue (base : Nat) (c : Char) : Option Nat :=
  let v :=
    if '0' ≤ c ∧ c ≤ '9' then c.toNat - '0'.toNat
    else if 'a' ≤ c.toLower ∧ c.toLower ≤ 'f' then c.toLower.toNat - 'a'.toNat + 10
    else 99
  if v < base then some v else none

/-- The number written by digits, most significant first. -/
def digitsValue (base : Nat) : List Char → Nat → Option Nat
  | [], acc => some acc
  | c :: cs, acc =>
    match digitValue base c with
    | some v => digitsValue base cs (acc * base + v)
    | none => none

/-- A decimal or 0x-prefixed hexadecimal number (30_encoding.md R90). The prefix is also taken as 0X, and leading
zeros are taken: R90 does not say (DESIGN CHOICE, log 16). -/
def readNumber : List Char → Option Nat
  | [] => none
  | '0' :: 'x' :: c :: cs => digitsValue 16 (c :: cs) 0
  | '0' :: 'X' :: c :: cs => digitsValue 16 (c :: cs) 0
  | c :: cs => digitsValue 10 (c :: cs) 0

/-- A register number 0 to 15 as its name writes it (30_encoding.md R90). -/
def readRegNumber : List Char → Option (Fin 16)
  | [d] =>
    match digitValue 10 d with
    | some v => some (Fin.ofNat 16 v)
    | none => none
  | ['1', d] =>
    match digitValue 10 d with
    | some v => if v ≤ 5 then some (Fin.ofNat 16 (10 + v)) else none
    | none => none
  | _ => none

/-- One operand (30_encoding.md R90); register names in either case. -/
def readOperand : List Char → Option Operand
  | [] => none
  | c :: cs =>
    if c.toLower = 'e' then (readRegNumber cs).map .ereg
    else if c.toLower = 'p' then (readRegNumber cs).map .preg
    else (readNumber (c :: cs)).map .num

/-- A blank of a line. -/
def isBlank (c : Char) : Bool := c == ' ' || c == '\t' || c == '\r'

/-- A text without the blanks at its ends. -/
def trimBlanks (l : List Char) : List Char := ((l.dropWhile isBlank).reverse.dropWhile isBlank).reverse

/-- The pieces of a text between commas. -/
def splitCommas : List Char → List (List Char)
  | [] => [[]]
  | c :: cs =>
    match splitCommas cs with
    | piece :: rest => if c = ',' then [] :: piece :: rest else (c :: piece) :: rest
    | [] => [[c]]

/-- The operands of a line, none where one is not an operand. -/
def readOperands (l : List Char) : Option (List Operand) :=
  if trimBlanks l = [] then some [] else (splitCommas l).mapM (fun piece => readOperand (trimBlanks piece))

/-- Assemble one line: a comment runs from ';' to its end, the mnemonic is in either case, and a line with
nothing else is no command (30_encoding.md R90). -/
def assembleLine (line : List Char) : Option (List CmdWord) :=
  let body := trimBlanks (line.takeWhile (fun c => c != ';'))
  if body = [] then some []
  else
    let mnemonic := String.ofList ((body.takeWhile (fun c => !isBlank c)).map Char.toUpper)
    match readOperands (body.dropWhile (fun c => !isBlank c)) with
    | some ops => assemble mnemonic ops
    | none => none

/-! Writing a line -/

/-- The name of an operand (30_encoding.md R90). -/
def Operand.text : Operand → String
  | .ereg r => "e" ++ toString r.val
  | .preg r => "p" ++ toString r.val
  | .num v => toString v

/-- A command in assembler syntax (30_encoding.md R90). -/
def commandText (mnemonic : String) (ops : List Operand) : String :=
  if ops = [] then mnemonic else mnemonic ++ " " ++ String.intercalate ", " (ops.map Operand.text)

/-- The mnemonic and operands of a command in the order of the syntax column of 30_encoding.md R85. -/
def asmForm : Instr → String × List Operand
  | .nop => ("NOP", [])
  | .clrerr => ("CLRERR", [])
  | .fadd a b c => ("FADD", [.ereg a, .ereg b, .ereg c])
  | .fmul a b c => ("FMUL", [.ereg a, .ereg b, .ereg c])
  | .fpow a b c => ("FPOW", [.ereg a, .ereg b, .ereg c])
  | .finv a b => ("FINV", [.ereg a, .ereg b])
  | .fdiv a b c => ("FDIV", [.ereg a, .ereg b, .ereg c])
  | .fcmp b c => ("FCMP", [.ereg b, .ereg c])
  | .fmov a b => ("FMOV", [.ereg a, .ereg b])
  | .fli a imm => ("FLI", [.ereg a, .num imm])
  | .fldb a blk => ("FLDB", [.ereg a, .num blk])
  | .fstb a blk => ("FSTB", [.ereg a, .num blk])
  | .fldi a blk => ("FLDI", [.ereg a, .num blk])
  | .fsti a blk => ("FSTI", [.ereg a, .num blk])
  | .padd a b c => ("PADD", [.preg a, .preg b, .preg c])
  | .pmul a b c => ("PMUL", [.preg a, .preg b, .preg c])
  | .pdiv a b c => ("PDIV", [.preg a, .preg b, .preg c])
  | .pmod a b c => ("PMOD", [.preg a, .preg b, .preg c])
  | .pgcd a b c => ("PGCD", [.preg a, .preg b, .preg c])
  | .pmonic a b => ("PMONIC", [.preg a, .preg b])
  | .pmov a b => ("PMOV", [.preg a, .preg b])
  | .pdeg b => ("PDEG", [.preg b])
  | .psetc a b imm => ("PSETC", [.preg a, .ereg b, .num imm])
  | .pgetc a b imm => ("PGETC", [.ereg a, .preg b, .num imm])
  | .pld a n blk => ("PLD", [.preg a, .num n, .num blk])
  | .pst a blk => ("PST", [.preg a, .num blk])
  | .ginit b c => ("GINIT", [.ereg b, .ereg c])
  | .gad n blk => ("GAD", [.num n, .num blk])
  | .gct n blk => ("GCT", [.num n, .num blk])
  | .gfin => ("GFIN", [])
  | .gtag a => ("GTAG", [.ereg a])
  | .grd a => ("GRD", [.ereg a])

/-- Eight hexadecimal digits of a word, capitals (DESIGN CHOICE, log 16). -/
def hexDigits (w : CmdWord) : List Char :=
  (List.range 8).map (fun k => Char.toUpper (Nat.digitChar ((w.toNat >>> (4 * (7 - k))) % 16)))

/-- The disassembler: a legal word as its command, an illegal one as `.word 0xXXXXXXXX` (30_encoding.md R90). -/
def disassemble (w : CmdWord) : String :=
  match decode w with
  | .ok i => commandText (asmForm i).1 (asmForm i).2
  | .error _ => ".word 0x" ++ String.ofList (hexDigits w)

end Sys2Proof.Machine
end

