-- ==== Sys2Proof/Safety.lean ====
section
/-! DEFINITION. What counts as a good state, what it means that a part of the state is unchanged, and sequences
of commands: the terms in which claims are stated. -/

namespace Sys2Proof.Machine

/-! Parts of the state that two states share -/

/-- Every element register reads the same. -/
def SameE (s t : State) : Prop := ∀ r : EReg, t.readE r = s.readE r

/-- Every element register but `a` reads the same. -/
def SameEBut (a : EReg) (s t : State) : Prop := ∀ r : EReg, r ≠ a → t.readE r = s.readE r

/-- Every polynomial register reads the same. -/
def SameP (s t : State) : Prop := ∀ r : PReg, t.readP r = s.readP r

/-- Every polynomial register but `a` reads the same. -/
def SamePBut (a : PReg) (s t : State) : Prop := ∀ r : PReg, r ≠ a → t.readP r = s.readP r

/-- FEQ and FLT are the same. -/
def SameFlags (s t : State) : Prop := t.feq = s.feq ∧ t.flt = s.flt

/-- RESULT is the same. -/
def SameResult (s t : State) : Prop := t.result = s.result

/-- GH_H, GH_EY0, GH_ACC, GH_ADBITS, GH_CTBITS and GPHASE are the same. -/
def SameGhash (s t : State) : Prop :=
  t.ghH = s.ghH ∧ t.ghEy0 = s.ghEy0 ∧ t.ghAcc = s.ghAcc ∧ t.ghAdBits = s.ghAdBits ∧
    t.ghCtBits = s.ghCtBits ∧ t.gphase = s.gphase

/-- ERR, ERRCODE and ERRCMD are the same. -/
def SameError (s t : State) : Prop := t.err = s.err ∧ t.errCode = s.errCode ∧ t.errCmd = s.errCmd

/-- Every byte of DMEM reads the same. -/
def SameMem (s t : State) : Prop := ∀ x : Nat, t.dmemByte x = s.dmemByte x

/-- The n bytes from `addr` on read as `bytes` says, and every other byte reads the same. -/
def MemStored (addr : Nat) (bytes : List Byte) (s t : State) : Prop :=
  ∀ x : Nat, t.dmemByte x =
    if addr ≤ x ∧ x < addr + bytes.length then bytes.getD (x - addr) 0 else s.dmemByte x

/-- PARAM, BUSY with its word, the held word, reset, and the model's own fields are the same: no command changes
them while it executes (BUSY falls as it completes). -/
def SameBus (s t : State) : Prop :=
  t.params = s.params ∧ t.running = s.running ∧ t.held = s.held ∧ t.inReset = s.inReset ∧
    t.events = s.events ∧ t.response = s.response ∧ t.resets = s.resets

/-- The command fails with error k: only the error state changes (60_exceptions.md R204). -/
def FailsWith (o : Host.Outcome State Fault Refusal) (k : ErrKind) (i : Instr) (s : State) : Prop :=
  ∃ t, o = .next t ∧ t.err = true ∧ t.errCode = k.code ∧ t.errCmd = encode i ∧
    SameE s t ∧ SameP s t ∧ SameFlags s t ∧ SameResult s t ∧ SameGhash s t ∧ SameMem s t ∧ SameBus s t

/-- The command writes v to element register a and changes nothing else. -/
def WritesE (o : Host.Outcome State Fault Refusal) (a : EReg) (v : Elem) (s : State) : Prop :=
  ∃ t, o = .next t ∧ t.readE a = v ∧ SameEBut a s t ∧
    SameP s t ∧ SameFlags s t ∧ SameResult s t ∧ SameGhash s t ∧ SameError s t ∧ SameMem s t ∧ SameBus s t

/-- The command writes a polynomial of which `holds` is true to polynomial register a and changes nothing else. -/
def WritesP (o : Host.Outcome State Fault Refusal) (a : PReg) (holds : Poly → Prop) (s : State) : Prop :=
  ∃ t, o = .next t ∧ holds (t.readP a) ∧ SamePBut a s t ∧
    SameE s t ∧ SameFlags s t ∧ SameResult s t ∧ SameGhash s t ∧ SameError s t ∧ SameMem s t ∧ SameBus s t

/-- The command stores `bytes` at `addr`, leaves RESULT as `res` says and changes nothing else. -/
def Stores (o : Host.Outcome State Fault Refusal) (addr : Nat) (bytes : List Byte) (res : BitVec 32)
    (s : State) : Prop :=
  ∃ t, o = .next t ∧ MemStored addr bytes s t ∧ t.result = res ∧
    SameE s t ∧ SameP s t ∧ SameFlags s t ∧ SameGhash s t ∧ SameError s t ∧ SameBus s t

/-- The command leaves the GHASH state as given and changes nothing else. -/
def WritesGhash (o : Host.Outcome State Fault Refusal) (h ey0 acc : Elem) (adBits ctBits : Nat) (ph : Phase)
    (s : State) : Prop :=
  ∃ t, o = .next t ∧ t.ghH = h ∧ t.ghEy0 = ey0 ∧ t.ghAcc = acc ∧ t.ghAdBits.toNat = adBits ∧
    t.ghCtBits.toNat = ctBits ∧ t.gphase = ph ∧
    SameE s t ∧ SameP s t ∧ SameFlags s t ∧ SameResult s t ∧ SameError s t ∧ SameMem s t ∧ SameBus s t

/-! Good states -/

/-- The codes the engine writes (60_exceptions.md R200, R202). -/
def raisedCodes : List (BitVec 4) := [1, 2, 3, 6, 7, 8, 9]

/-- Every polynomial register is canonical and not longer than PMAXLEN (10_state.md R36). -/
abbrev State.PolysGood (s : State) : Prop :=
  ∀ r : PReg, canonical (s.readP r) = true ∧ (s.readP r).length ≤ s.params.pmaxlen

/-- DMEM is in its canonical form and lists only bytes that exist (20_memory.md R60). -/
abbrev State.MemGood (s : State) : Prop := s.dmem.wf ∧ ∀ c ∈ s.dmem, c.1 < s.params.dmemBytes

/-- ERRCODE and ERRCMD are 0 while no error is pending, and ERRCODE is a code the engine raises while one is
(10_state.md R42, 60_exceptions.md R200). -/
abbrev State.ErrorGood (s : State) : Prop :=
  if s.err then s.errCode ∈ raisedCodes else s.errCode = 0 ∧ s.errCmd = 0

/-- The GHASH state agrees with its phase: bit lengths count whole bytes, IDLE has only reset values, AD has no
ciphertext and CT has some (10_state.md R41, 42_ghash.md R173 to R176, 70_reset_and_hazards.md R234). -/
abbrev State.GhashGood (s : State) : Prop :=
  s.ghAdBits.toNat % 8 = 0 ∧ s.ghCtBits.toNat % 8 = 0 ∧
  (s.gphase = .idle → s.ghH = 0 ∧ s.ghEy0 = 0 ∧ s.ghAcc = 0 ∧ s.ghAdBits = 0 ∧ s.ghCtBits = 0) ∧
  (s.gphase = .ad → s.ghCtBits = 0) ∧ (s.gphase = .ct → s.ghCtBits ≠ 0)

/-- The invariant of the machine. -/
abbrev State.Inv (s : State) : Prop :=
  s.params.Legal ∧ s.PolysGood ∧ s.MemGood ∧ s.ErrorGood ∧ s.GhashGood

/-! Sequences of commands -/

/-- Issue words one after the other, each completing before the next (10_state.md R31, 20_memory.md R71). -/
def issueAll : List CmdWord → State → Host.Outcome State Fault Refusal
  | [], s => .next s
  | w :: ws, s =>
    match issue w s with
    | .next t => issueAll ws t
    | .fault r => .fault r
    | .refused r => .refused r

/-- Steps 2 to 4 of software re-initialisation (70_reset_and_hazards.md R234). -/
def reinitSteps2To4 : List Instr :=
  [.fli 0 1, .psetc 0 0 0, .pdeg 0] ++
    (List.finRange 16).map (fun r => Instr.pld r 0 0) ++ (List.finRange 16).map (fun r => Instr.fli r 0)

/-- The commands of software re-initialisation, steps 1 to 4 in order (70_reset_and_hazards.md R234; they are 36,
and what they leave in RESULT depends on P0: log 17). -/
def reinitCommands : List Instr := .clrerr :: reinitSteps2To4

/-- The same with P0 made zero before step 2, so that step 2 makes P0 = [1] from every state, as R234 says it does:
the added command is the model's choice (log 17). -/
def reinitZeroingP0 : List Instr := [.clrerr, .pld 0 0 0] ++ reinitSteps2To4

/-- The bytes a list of (count, block) chunks names, in order. -/
def chunkBytes (s : State) (chunks : List (Nat × Nat)) : List Byte :=
  chunks.flatMap (fun c => s.memRead (blockAddr c.2) c.1)

/-- A list of chunks that GAD or GCT absorbs without error: each count 1 to 255, all but the last a multiple of
16, every range in DMEM, every block index encodable (42_ghash.md R179). -/
abbrev ChunksFit (s : State) (chunks : List (Nat × Nat)) : Prop :=
  (∀ c ∈ chunks, 0 < c.1 ∧ c.1 < 2 ^ 8 ∧ c.2 < 2 ^ 14 ∧ s.bytesInRange c.2 c.1 = true) ∧
    ∀ c ∈ chunks.dropLast, c.1 % 16 = 0

end Sys2Proof.Machine
end

