-- ==== Sys2Proof/Certificates/Slice0/Obligations.lean ====
section
/-! DEFINITION. The statements for the provers. Each docstring names the rule of spec/ it formalises, or says what
it is derived from. A command's statement is about exec, the effect of a command that is past the error gate;
StepRunsTheDecodedCommand, ErrorGateDiscardsCommands and IllegalWordsRaiseIllegalCommand say
how a word gets there. -/

open Sys2Proof Sys2Proof.Machine

namespace Sys2Proof.Claims

/-- The opcode map as the spec prints it: mnemonic, match, mask (30_encoding.md R85). -/
def opcodeMap : List (String × CmdWord × CmdWord) :=
  [ ("NOP", 0x00000000, 0xFFFFFFFF), ("CLRERR", 0x04000000, 0xFFFFFFFF),
    ("FADD", 0x20000000, 0xFC003FFF), ("FMUL", 0x24000000, 0xFC003FFF),
    ("FPOW", 0x28000000, 0xFC003FFF), ("FINV", 0x2C000000, 0xFC03FFFF),
    ("FDIV", 0x30000000, 0xFC003FFF), ("FCMP", 0x34000000, 0xFFC03FFF),
    ("FMOV", 0x38000000, 0xFC03FFFF), ("FLI", 0x3C000000, 0xFC3FC000),
    ("FLDB", 0x40000000, 0xFC3FC000), ("FSTB", 0x44000000, 0xFC3FC000),
    ("FLDI", 0x48000000, 0xFC3FC000), ("FSTI", 0x4C000000, 0xFC3FC000),
    ("PADD", 0x80000000, 0xFC003FFF), ("PMUL", 0x84000000, 0xFC003FFF),
    ("PDIV", 0x88000000, 0xFC003FFF), ("PMOD", 0x8C000000, 0xFC003FFF),
    ("PGCD", 0x90000000, 0xFC003FFF), ("PMONIC", 0x94000000, 0xFC03FFFF),
    ("PMOV", 0x98000000, 0xFC03FFFF), ("PDEG", 0x9C000000, 0xFFC3FFFF),
    ("PSETC", 0xA0000000, 0xFC03C000), ("PGETC", 0xA4000000, 0xFC03C000),
    ("PLD", 0xA8000000, 0xFC000000), ("PST", 0xAC000000, 0xFC3FC000),
    ("GINIT", 0xC0000000, 0xFFC03FFF), ("GAD", 0xC4000000, 0xFFC00000),
    ("GCT", 0xC8000000, 0xFFC00000), ("GFIN", 0xCC000000, 0xFFFFFFFF),
    ("GTAG", 0xD0000000, 0xFC3FFFFF), ("GRD", 0xD4000000, 0xFC3FFFFF) ]

/-- The reserved opcodes (30_encoding.md R87). -/
abbrev reservedOpcode (op : Nat) : Prop :=
  (0x02 ≤ op ∧ op ≤ 0x07) ∨ (0x14 ≤ op ∧ op ≤ 0x1F) ∨ (0x2C ≤ op ∧ op ≤ 0x2F) ∨ (0x36 ≤ op ∧ op ≤ 0x3F)

/-- The polynomial over GF(2) whose coefficient of x^i is bit i (00_scope.md R10). -/
noncomputable def toGF2 (v : Nat) : Polynomial (ZMod 2) :=
  ∑ i ∈ Finset.range (bitlen v), if v.testBit i then Polynomial.X ^ i else 0

/-- x^128 + x^7 + x^2 + x + 1 (00_scope.md R2). -/
noncomputable def modulusGF2 : Polynomial (ZMod 2) :=
  Polynomial.X ^ 128 + Polynomial.X ^ 7 + Polynomial.X ^ 2 + Polynomial.X + 1

/-- The XOR of a list of elements. -/
def xorAll (l : List Elem) : Elem := l.foldr (fun a b => a ^^^ b) 0

/-- The n DMEM bytes from block blk on in ceil(n/16) pieces of 16 bytes, zero beyond the n-th (42_ghash.md R171,
R174). -/
def paddedPieces (s : State) (n blk : Nat) : List (List Byte) :=
  (List.range ((n + 15) / 16)).map (fun j =>
    (List.range 16).map (fun k => if 16 * j + k < n then s.dmemByte (16 * blk + (16 * j + k)) else 0))

/-- The GHASH absorption of n bytes from block blk (42_ghash.md R174). -/
def absorbed (s : State) (n blk : Nat) : Elem :=
  (paddedPieces s n blk).foldl (fun x B => gfmul (x ^^^ blockToElem B) s.ghH) s.ghAcc

/-- The commands that write an element register (10_state.md R33). -/
def destE : Instr → Option EReg
  | .fadd a _ _ | .fmul a _ _ | .fpow a _ _ | .finv a _ | .fdiv a _ _ | .fmov a _ | .fli a _
  | .fldb a _ | .fldi a _ | .pgetc a _ _ | .gtag a | .grd a => some a
  | _ => none

/-- The commands that write a polynomial register (10_state.md R37). -/
def destP : Instr → Option PReg
  | .padd a _ _ | .pmul a _ _ | .pdiv a _ _ | .pmod a _ _ | .pgcd a _ _ | .pmonic a _ | .pmov a _
  | .psetc a _ _ | .pld a _ _ => some a
  | _ => none

/-- FCMP and PDEG (10_state.md R38). -/
def writesFlags : Instr → Bool
  | .fcmp _ _ | .pdeg _ => true
  | _ => false

/-- PDEG and PST (10_state.md R39). -/
def writesResult : Instr → Bool
  | .pdeg _ | .pst _ _ => true
  | _ => false

/-- FSTB, FSTI and PST (20_memory.md R61). -/
def writesDmem : Instr → Bool
  | .fstb _ _ | .fsti _ _ | .pst _ _ => true
  | _ => false

/-- The GHASH commands that change GHASH state (42_ghash.md R173 to R178). -/
def writesGhash : Instr → Bool
  | .ginit _ _ | .gad _ _ | .gct _ _ | .gfin => true
  | _ => false

/-- The command list of one GHASH message (42_ghash.md R179). -/
def messageCommands (eH eY : EReg) (ads cts : List (Nat × Nat)) : List Instr :=
  [.ginit eH eY] ++ ads.map (fun c => Instr.gad c.1 c.2) ++ cts.map (fun c => Instr.gct c.1 c.2) ++ [.gfin]

/-- t has the reset value in every element and polynomial register, both flags and the error state, and the GHASH
state and DMEM of s; RESULT is left open (70_reset_and_hazards.md R234). -/
def Reinitialised (s t : State) : Prop :=
  (∀ r : EReg, t.readE r = 0) ∧ (∀ r : PReg, t.readP r = [0]) ∧ t.feq = false ∧ t.flt = false ∧
    t.err = false ∧ t.errCode = 0 ∧ t.errCmd = 0 ∧ SameGhash s t ∧ SameMem s t

/-- The counts and block indices of the chunks are encodable. -/
abbrev ChunksEncodable (chunks : List (Nat × Nat)) : Prop := ∀ c ∈ chunks, c.1 < 2 ^ 8 ∧ c.2 < 2 ^ 14

end Sys2Proof.Claims

open Sys2Proof.Claims

/-! Encoding -/

/-- Decode and encode agree: the word of a well-formed command decodes to it, every operand at every value. -/
def Obligations.DecodeOfEncodeIsTheCommand : Prop :=
  ∀ i : Instr, i.wellFormed = true → decode (encode i) = .ok i

/-- No bit is dropped: a legal word is the word of the command it decodes to, and that command is well formed. -/
def Obligations.EncodeOfDecodeIsTheWord : Prop :=
  ∀ (w : CmdWord) (i : Instr), decode w = .ok i → i.wellFormed = true ∧ encode i = w

/-- 30_encoding.md R85: a word encodes an instruction of the printed opcode map exactly when it agrees with the
row's match under the row's mask. -/
def Obligations.WordsOfARowAreThoseItsMaskSelects : Prop :=
  ∀ row ∈ opcodeMap, ∀ w : CmdWord,
    (w &&& row.2.2 = row.2.1) ↔ ∃ i, decode w = .ok i ∧ (asmForm i).1 = row.1

/-- 30_encoding.md R86 and R87: a reserved opcode is illegal whatever the other bits hold, all-ones being one such
word, and a defined opcode with a 1 in a must-be-zero bit is illegal; both raise IllegalCommand. -/
def Obligations.IllegalWordsRaiseIllegalCommand : Prop :=
  (∀ (w : CmdWord) (s : State), s.err = false → reservedOpcode (opcodeOf w) →
      issue w s = .next (s.enterError .illegalCommand w)) ∧
  opcodeOf 0xFFFFFFFF = 0x3F ∧
  (∀ row ∈ opcodeMap, ∀ (w : CmdWord) (s : State), s.err = false →
    opcodeOf w = opcodeOf row.2.1 → w &&& row.2.2 ≠ row.2.1 →
    issue w s = .next (s.enterError .illegalCommand w)) ∧
  ErrKind.illegalCommand.code = 1

/-- 95_test_vectors.md section 4: sample words decode as the spec's vectors say. -/
def Obligations.SampleWordsDecodeAsTheVectorsSay : Prop :=
  decode 0x00000000 = .ok .nop ∧ decode 0x20C48000 = .ok (.fadd 3 1 2) ∧
  decode 0x3D000001 = .ok (.fli 4 1) ∧ decode 0x40400002 = .ok (.fldb 1 2) ∧
  decode 0xA0480003 = .ok (.psetc 1 2 3) ∧ decode 0xABFFFFFF = .ok (.pld 15 255 16383) ∧
  decode 0xC0048000 = .ok (.ginit 1 2) ∧ decode 0xC4014000 = .ok (.gad 5 0) ∧
  decode 0xD5000000 = .ok (.grd 4) ∧ decode 0x3CFFFFFF = .error (.mustBeZero 0x0F) ∧
  decode 0x08000000 = .error (.reservedOpcode 0x02)

/-! Encodings of elements in DMEM -/

/-- 00_scope.md R12 and 20_memory.md R63: rev128 reverses every bit, is its own inverse and is linear over XOR; the
block encoding is the rule's formula and, bit by bit, its reading, and its two functions are inverse. -/
def Obligations.BlockEncodingReversesEveryBit : Prop :=
  (∀ (v : Elem) (i : Nat), i < 128 → (rev128 v).getLsbD i = v.getLsbD (127 - i)) ∧
  (∀ v : Elem, rev128 (rev128 v) = v) ∧
  (∀ a b : Elem, rev128 (a ^^^ b) = rev128 a ^^^ rev128 b) ∧
  (∀ x : Elem, (elemToBlock x).length = 16 ∧ beValue (elemToBlock x) = (rev128 x).toNat ∧
    blockToElem (elemToBlock x) = x ∧
    ∀ i < 128, ((elemToBlock x).getD (i / 8) 0).getLsbD (7 - i % 8) = x.getLsbD i) ∧
  (∀ s : List Byte, s.length = 16 → elemToBlock (blockToElem s) = s ∧
    blockToElem s = rev128 (BitVec.ofNat 128 (beValue s)) ∧
    ∀ i < 128, (blockToElem s).getLsbD i = (s.getD (i / 8) 0).getLsbD (7 - i % 8))

/-- 20_memory.md R64 and R65: the integer encoding is the 16-byte big-endian sequence of the integer form, unreversed;
the length block is two 8-byte big-endian bit lengths, that of the AD first. -/
def Obligations.IntegerEncodingAndLengthBlockAreBigEndian : Prop :=
  (∀ x : Elem, (elemToInt x).length = 16 ∧ beValue (elemToInt x) = x.toNat ∧
    ∀ k < 16, ∀ j < 8, ((elemToInt x).getD k 0).getLsbD j = x.getLsbD (8 * (15 - k) + j)) ∧
  (∀ s : List Byte, s.length = 16 → (intToElem s).toNat = beValue s ∧ elemToInt (intToElem s) = s) ∧
  (∀ a c : Nat, a < 2 ^ 64 → c < 2 ^ 64 → (lenBlock a c).length = 16 ∧
    beValue ((lenBlock a c).take 8) = a ∧ beValue ((lenBlock a c).drop 8) = c)

/-- 40_field.md R128: XOR commutes with the block encoding, so a Horner step and the tag may be formed on either
form. -/
def Obligations.XorCommutesWithBlockEncoding : Prop :=
  (∀ a b : Elem, elemToBlock (a ^^^ b) = List.zipWith (· ^^^ ·) (elemToBlock a) (elemToBlock b)) ∧
  (∀ (x : Elem) (B : List Byte), B.length = 16 →
    x ^^^ blockToElem B = blockToElem (List.zipWith (· ^^^ ·) (elemToBlock x) B)) ∧
  (∀ (h ey0 : Elem) (ad ct : List Byte),
    gcmTag h ey0 ad ct = List.zipWith (· ^^^ ·) (elemToBlock (ghash h ad ct)) (elemToBlock ey0))

/-- 40_field.md R129: the three round trips; and what the exponent-set form is, the ascending list of the set bits,
and what its inverse makes of a list (00_scope.md R17). -/
def Obligations.ElementFormsRoundTrip : Prop :=
  (∀ x : Elem, blockToElem (elemToBlock x) = x ∧ intToElem (elemToInt x) = x ∧ fromExps (exps x) = x) ∧
  (∀ x : Elem, (exps x).Pairwise (· < ·) ∧ ∀ i : Nat, i ∈ exps x ↔ i < 128 ∧ x.getLsbD i = true) ∧
  (∀ l : List Nat, (∀ i ∈ l, i < 128) → ∀ i : Nat, (fromExps l).getLsbD i = true ↔ i ∈ l)

/-! Arithmetic -/

/-- 00_scope.md R13: bit k of clmul(a, b) is the parity of the pairs of set bits that sum to k, and the product of
128-bit operands has at most 255 bits. -/
def Obligations.ClmulIsTheCarrylessProduct : Prop :=
  (∀ a b k : Nat, (clmul a b).testBit k =
    decide (((List.range (k + 1)).countP (fun i => b.testBit i && a.testBit (k - i))) % 2 = 1)) ∧
  (∀ a b : Nat, a < 2 ^ 128 → b < 2 ^ 128 → clmul a b < 2 ^ 255)

/-- 40_field.md R111: reduce(v) is the unique number below 2^128 congruent to v modulo RP over GF(2), reached
within 127 passes for v below 2^255. -/
def Obligations.ReduceGivesTheUniqueResidue : Prop :=
  ∀ v : Nat, v < 2 ^ 255 → reduceLoop 127 v = reduce v ∧
    ∀ w : Nat, (w < 2 ^ 128 ∧ modulusGF2 ∣ toGF2 w - toGF2 v) ↔ w = reduce v

/-- 40_field.md R112: gfmul is the product in GF(2)[x]/(x^128 + x^7 + x^2 + x + 1). -/
def Obligations.FieldProductIsThePolynomialProduct : Prop :=
  ∀ a b : Elem, (gfmul a b).toNat = reduce (clmul a.toNat b.toNat) ∧
    toGF2 (gfmul a b).toNat = (toGF2 a.toNat * toGF2 b.toNat) %ₘ modulusGF2

/-- 40_field.md R113: gfpow is the exact field power; a^0 = 1 for every a. -/
def Obligations.FieldPowerIsTheExactPower : Prop :=
  ∀ a e : Elem, toGF2 (gfpow a e).toNat = (toGF2 a.toNat ^ e.toNat) %ₘ modulusGF2 ∧ gfpow a 0 = 1

/-- The ring laws of 40_field.md R126: those that need no inverse. -/
def Obligations.FieldRingLaws : Prop :=
  ∀ a b c : Elem, gfmul a b = gfmul b a ∧ gfmul a (gfmul b c) = gfmul (gfmul a b) c ∧
    gfmul a (b ^^^ c) = gfmul a b ^^^ gfmul a c ∧ gfmul a 1 = a ∧ gfmul a 0 = 0

/-- The inverse laws of 40_field.md R126 and R117: a nonzero element times its inverse is 1, and a product is 0
only if a factor is. -/
def Obligations.NonzeroElementTimesItsInverseIsOne : Prop :=
  (∀ a : Elem, a ≠ 0 → gfmul a (gfinv a) = 1) ∧
  (∀ a b : Elem, gfmul a b = 0 → a = 0 ∨ b = 0)

/-- The division identity and the remainder's length (41_polynomial.md R143, R158). -/
def Obligations.LongDivisionIdentity : Prop :=
  ∀ u d : Poly, canonical u = true → canonical d = true → d ≠ [0] →
    padd (pmul (pdivmod u d).1 d) (pdivmod u d).2 = u ∧
    ((pdivmod u d).2 = [0] ∨ (pdivmod u d).2.length < d.length)

/-- The GCD is monic, divides both operands with zero remainder (41_polynomial.md R145, R158), and is the greatest
such: every common divisor divides it. -/
def Obligations.GcdIsMonicAndDividesBoth : Prop :=
  ∀ u v : Poly, canonical u = true → canonical v = true → ¬(u = [0] ∧ v = [0]) →
    canonical (pgcd u v) = true ∧ lead (pgcd u v) = 1 ∧
    (pdivmod u (pgcd u v)).2 = [0] ∧ (pdivmod v (pgcd u v)).2 = [0] ∧
    ∀ e : Poly, canonical e = true → e ≠ [0] → (pdivmod u e).2 = [0] → (pdivmod v e).2 = [0] →
      (pdivmod (pgcd u v) e).2 = [0]

/-! Control commands -/

/-- 43_control.md R190 and R191: NOP changes nothing, CLRERR clears ERR, ERRCODE and ERRCMD and nothing else. -/
def Obligations.NopAndClrerrEffects : Prop :=
  ∀ s : State, exec .nop s = .next s ∧
    ∃ t, exec .clrerr s = .next t ∧ t.err = false ∧ t.errCode = 0 ∧ t.errCmd = 0 ∧
      SameE s t ∧ SameP s t ∧ SameFlags s t ∧ SameResult s t ∧ SameGhash s t ∧ SameMem s t ∧ SameBus s t

/-! Field commands -/

/-- 40_field.md R114, R120 and R121: FADD writes the XOR, FMOV copies, FLI loads the zero-extended immediate. -/
def Obligations.FaddFmovFliWriteTheirValue : Prop :=
  ∀ (a b c : EReg) (imm : Nat) (s : State),
    WritesE (exec (.fadd a b c) s) a (s.readE b ^^^ s.readE c) s ∧
    WritesE (exec (.fmov a b) s) a (s.readE b) s ∧
    (immFits imm = true → ∃ v : Elem, v.toNat = imm ∧ WritesE (exec (.fli a imm) s) a v s)

/-- 40_field.md R115 and R116: FMUL writes the field product and FPOW the field power, its exponent the integer form of
E[c]; both are read as the polynomials over GF(2) they stand for. -/
def Obligations.FmulAndFpowWriteProductAndPower : Prop :=
  ∀ (a b c : EReg) (s : State),
    (∃ v, WritesE (exec (.fmul a b c) s) a v s ∧ v = gfmul (s.readE b) (s.readE c) ∧
      toGF2 v.toNat = (toGF2 (s.readE b).toNat * toGF2 (s.readE c).toNat) %ₘ modulusGF2) ∧
    (∃ v, WritesE (exec (.fpow a b c) s) a v s ∧ v = gfpow (s.readE b) (s.readE c) ∧
      toGF2 v.toNat = (toGF2 (s.readE b).toNat ^ (s.readE c).toNat) %ₘ modulusGF2)

/-- FINV and FDIV as the pseudocode of 40_field.md R117 and R118 gives them: DivisionByZero by zero, else the
power 2^128 - 2 and the product with it. -/
def Obligations.FinvAndFdivDivideOrRaise : Prop :=
  ∀ (a b c : EReg) (s : State),
    (if s.readE b = 0 then FailsWith (exec (.finv a b) s) .divisionByZero (.finv a b) s
     else WritesE (exec (.finv a b) s) a (gfpow (s.readE b) (BitVec.ofNat 128 (2 ^ 128 - 2))) s) ∧
    (if s.readE c = 0 then FailsWith (exec (.fdiv a b c) s) .divisionByZero (.fdiv a b c) s
     else WritesE (exec (.fdiv a b c) s) a
      (gfmul (s.readE b) (gfpow (s.readE c) (BitVec.ofNat 128 (2 ^ 128 - 2)))) s)

/-- 40_field.md R119: FCMP writes both flags from the integer forms and nothing else. -/
def Obligations.FcmpComparesIntegerForms : Prop :=
  ∀ (b c : EReg) (s : State), ∃ t, exec (.fcmp b c) s = .next t ∧
    (t.feq = true ↔ s.readE b = s.readE c) ∧ (t.flt = true ↔ (s.readE b).toNat < (s.readE c).toNat) ∧
    SameE s t ∧ SameP s t ∧ SameResult s t ∧ SameGhash s t ∧ SameError s t ∧ SameMem s t ∧ SameBus s t

/-- 40_field.md R122 and R124: FLDB and FLDI, bit by bit from the 16 bytes of the block, or AddressError. -/
def Obligations.FldbAndFldiReadTheBlock : Prop :=
  ∀ (a : EReg) (blk : Nat) (s : State),
    if blk + 1 > s.params.dmemBlocks then
      FailsWith (exec (.fldb a blk) s) .addressError (.fldb a blk) s ∧
      FailsWith (exec (.fldi a blk) s) .addressError (.fldi a blk) s
    else
      (∃ v, WritesE (exec (.fldb a blk) s) a v s ∧
        ∀ i < 128, v.getLsbD i = (s.dmemByte (16 * blk + i / 8)).getLsbD (7 - i % 8)) ∧
      (∃ v, WritesE (exec (.fldi a blk) s) a v s ∧
        ∀ i < 128, v.getLsbD i = (s.dmemByte (16 * blk + (15 - i / 8))).getLsbD (i % 8))

/-- 40_field.md R123 and R125: FSTB and FSTI store the 16 bytes of the block and nothing else, or AddressError. -/
def Obligations.FstbAndFstiStoreTheBlock : Prop :=
  ∀ (a : EReg) (blk : Nat) (s : State),
    if blk + 1 > s.params.dmemBlocks then
      FailsWith (exec (.fstb a blk) s) .addressError (.fstb a blk) s ∧
      FailsWith (exec (.fsti a blk) s) .addressError (.fsti a blk) s
    else
      Stores (exec (.fstb a blk) s) (blockAddr blk) (elemToBlock (s.readE a)) s.result s ∧
      Stores (exec (.fsti a blk) s) (blockAddr blk) (elemToInt (s.readE a)) s.result s ∧
      blockAddr blk = 16 * blk

/-! Polynomial commands -/

/-- 41_polynomial.md R146 with R141: PADD adds coefficient by coefficient; the result is canonical and no longer
than its longer operand. -/
def Obligations.PaddAddsCoefficients : Prop :=
  ∀ (a b c : PReg) (s : State), WritesP (exec (.padd a b c) s) a
    (fun q => canonical q = true ∧ (∀ j, coeff q j = coeff (s.readP b) j ^^^ coeff (s.readP c) j) ∧
      q.length ≤ max (max (s.readP b).length (s.readP c).length) 1) s

/-- 41_polynomial.md R147 with R142: PMUL convolves, or CapacityExceeded where the product of nonzero operands
would be longer than PMAXLEN. -/
def Obligations.PmulConvolvesOrRaises : Prop :=
  ∀ (a b c : PReg) (s : State),
    if s.readP b ≠ [0] ∧ s.readP c ≠ [0] ∧
        (s.readP b).length + (s.readP c).length - 1 > s.params.pmaxlen then
      FailsWith (exec (.pmul a b c) s) .capacityExceeded (.pmul a b c) s
    else
      WritesP (exec (.pmul a b c) s) a
        (fun q => canonical q = true ∧ ∀ k, coeff q k =
          xorAll ((List.range (k + 1)).map
            (fun i => gfmul (coeff (s.readP b) i) (coeff (s.readP c) (k - i))))) s

/-- PDIV and PMOD (41_polynomial.md R148, R149) write the quotient and the remainder of the long division of R143,
or raise DivisionByZero. The registers are canonical, as the invariant of R36 says. -/
def Obligations.PdivAndPmodWriteQuotientAndRemainder : Prop :=
  ∀ (a b c : PReg) (s : State), s.PolysGood →
    if s.readP c = [0] then
      FailsWith (exec (.pdiv a b c) s) .divisionByZero (.pdiv a b c) s ∧
      FailsWith (exec (.pmod a b c) s) .divisionByZero (.pmod a b c) s
    else
      WritesP (exec (.pdiv a b c) s) a (fun q => q = (pdivmod (s.readP b) (s.readP c)).1) s ∧
      WritesP (exec (.pmod a b c) s) a (fun r => r = (pdivmod (s.readP b) (s.readP c)).2) s

/-- PGCD and PMONIC (41_polynomial.md R150, R151): the monic GCD and the monic form, stripped as every P result is
(R140), or DivisionByZero. -/
def Obligations.PgcdAndPmonicNormaliseOrRaise : Prop :=
  ∀ (a b c : PReg) (s : State),
    (if s.readP b = [0] ∧ s.readP c = [0] then
      FailsWith (exec (.pgcd a b c) s) .divisionByZero (.pgcd a b c) s
     else
      WritesP (exec (.pgcd a b c) s) a (fun q => q = strip (pgcd (s.readP b) (s.readP c))) s) ∧
    (if s.readP b = [0] then FailsWith (exec (.pmonic a b) s) .divisionByZero (.pmonic a b) s
     else
      WritesP (exec (.pmonic a b) s) a
        (fun q => canonical q = true ∧ ∀ j, coeff q j =
          gfmul (coeff (s.readP b) j) (gfpow (lead (s.readP b)) (BitVec.ofNat 128 (2 ^ 128 - 2)))) s)

/-- 41_polynomial.md R152: PMOV copies a canonical polynomial. -/
def Obligations.PmovCopiesThePolynomial : Prop :=
  ∀ (a b : PReg) (s : State), canonical (s.readP b) = true →
    WritesP (exec (.pmov a b) s) a (fun q => q = s.readP b) s

/-- 41_polynomial.md R153: PDEG reports the degree in RESULT and the zero polynomial in FEQ. -/
def Obligations.PdegReportsTheDegree : Prop :=
  ∀ (b : PReg) (s : State), ∃ t, exec (.pdeg b) s = .next t ∧
    t.result = BitVec.ofNat 32 ((s.readP b).length - 1) ∧ (t.feq = true ↔ s.readP b = [0]) ∧ t.flt = false ∧
    SameE s t ∧ SameP s t ∧ SameGhash s t ∧ SameError s t ∧ SameMem s t ∧ SameBus s t

/-- 41_polynomial.md R154 and R155: PSETC sets one coefficient of a canonical result, or CapacityExceeded; PGETC reads
one, 0 at and beyond the length. -/
def Obligations.PsetcAndPgetcAccessOneCoefficient : Prop :=
  ∀ (a b : Fin 16) (imm : Nat) (s : State),
    (if imm ≥ s.params.pmaxlen then FailsWith (exec (.psetc a b imm) s) .capacityExceeded (.psetc a b imm) s
     else
      WritesP (exec (.psetc a b imm) s) a
        (fun q => canonical q = true ∧
          ∀ j, coeff q j = if j = imm then s.readE b else coeff (s.readP a) j) s) ∧
    WritesE (exec (.pgetc a b imm) s) a
      (if h : imm < (s.readP b).length then (s.readP b)[imm] else 0) s

/-- 41_polynomial.md R156: PLD loads n blocks, lowest degree first; AddressError before CapacityExceeded. -/
def Obligations.PldLoadsTheInterchangeFormat : Prop :=
  ∀ (a : PReg) (n blk : Nat) (s : State),
    if blk + n > s.params.dmemBlocks then FailsWith (exec (.pld a n blk) s) .addressError (.pld a n blk) s
    else if n > s.params.pmaxlen then FailsWith (exec (.pld a n blk) s) .capacityExceeded (.pld a n blk) s
    else
      WritesP (exec (.pld a n blk) s) a
        (fun q => canonical q = true ∧ ∀ j, coeff q j =
          if j < n then blockToElem (s.memRead (16 * (blk + j)) 16) else 0) s

/-- 41_polynomial.md R157: PST stores one block for each coefficient and none for the zero polynomial, and RESULT
is their number; AddressError where they do not fit. -/
def Obligations.PstStoresTheInterchangeFormat : Prop :=
  ∀ (a : PReg) (blk : Nat) (s : State),
    if s.readP a = [0] then
      if blk > s.params.dmemBlocks then FailsWith (exec (.pst a blk) s) .addressError (.pst a blk) s
      else Stores (exec (.pst a blk) s) (blockAddr blk) [] 0 s
    else if blk + (s.readP a).length > s.params.dmemBlocks then
      FailsWith (exec (.pst a blk) s) .addressError (.pst a blk) s
    else
      Stores (exec (.pst a blk) s) (blockAddr blk) ((s.readP a).flatMap elemToBlock)
        (BitVec.ofNat 32 (s.readP a).length) s

/-! GHASH commands -/

/-- 42_ghash.md R173: GINIT starts a message in every phase. -/
def Obligations.GinitStartsAMessage : Prop :=
  ∀ (b c : EReg) (s : State),
    WritesGhash (exec (.ginit b c) s) (s.readE b) (s.readE c) 0 0 0 .ad s

/-- 42_ghash.md R174: GAD absorbs associated data, or raises the first error that applies. -/
def Obligations.GadAbsorbsOrRaises : Prop :=
  ∀ (n blk : Nat) (s : State),
    if s.gphase ≠ .ad ∨ s.ghAdBits.toNat % 128 ≠ 0 then
      FailsWith (exec (.gad n blk) s) .sequenceError (.gad n blk) s
    else if n = 0 then FailsWith (exec (.gad n blk) s) .lengthMismatch (.gad n blk) s
    else if 16 * blk + n > s.params.dmemBytes then
      FailsWith (exec (.gad n blk) s) .addressError (.gad n blk) s
    else if s.ghAdBits.toNat + 8 * n > 2 ^ 64 - 1 then
      FailsWith (exec (.gad n blk) s) .lengthOverflow (.gad n blk) s
    else
      WritesGhash (exec (.gad n blk) s) s.ghH s.ghEy0 (absorbed s n blk) (s.ghAdBits.toNat + 8 * n)
        s.ghCtBits.toNat .ad s

/-- 42_ghash.md R175: GCT absorbs ciphertext and sets phase CT, or raises the first error that applies. -/
def Obligations.GctAbsorbsOrRaises : Prop :=
  ∀ (n blk : Nat) (s : State),
    if (s.gphase ≠ .ad ∧ s.gphase ≠ .ct) ∨ s.ghCtBits.toNat % 128 ≠ 0 then
      FailsWith (exec (.gct n blk) s) .sequenceError (.gct n blk) s
    else if n = 0 then FailsWith (exec (.gct n blk) s) .lengthMismatch (.gct n blk) s
    else if 16 * blk + n > s.params.dmemBytes then
      FailsWith (exec (.gct n blk) s) .addressError (.gct n blk) s
    else if s.ghCtBits.toNat + 8 * n > 2 ^ 64 - 1 then
      FailsWith (exec (.gct n blk) s) .lengthOverflow (.gct n blk) s
    else
      WritesGhash (exec (.gct n blk) s) s.ghH s.ghEy0 (absorbed s n blk) s.ghAdBits.toNat
        (s.ghCtBits.toNat + 8 * n) .ct s

/-- 42_ghash.md R176: GFIN applies the empty-CT rule and the length block, or raises SequenceError. -/
def Obligations.GfinAppliesTheLengthBlock : Prop :=
  ∀ s : State,
    if s.gphase ≠ .ad ∧ s.gphase ≠ .ct then FailsWith (exec .gfin s) .sequenceError .gfin s
    else
      WritesGhash (exec .gfin s) s.ghH s.ghEy0
        (gfmul ((if s.ghCtBits.toNat = 0 then gfmul (s.ghAcc ^^^ 0) s.ghH else s.ghAcc) ^^^
          blockToElem (lenBlock s.ghAdBits.toNat s.ghCtBits.toNat)) s.ghH)
        s.ghAdBits.toNat s.ghCtBits.toNat .done s

/-- 42_ghash.md R177 and R178: GTAG gives the tag in phase DONE only, GRD the accumulator in every phase. -/
def Obligations.GtagAndGrdReadTheAccumulator : Prop :=
  ∀ (a : EReg) (s : State),
    (if s.gphase = .done then WritesE (exec (.gtag a) s) a (s.ghAcc ^^^ s.ghEy0) s
     else FailsWith (exec (.gtag a) s) .sequenceError (.gtag a) s) ∧
    WritesE (exec (.grd a) s) a s.ghAcc s

/-! Which commands write what, over all commands -/

/-- 10_state.md R33 and R37: a command changes no element or polynomial register but its destination. -/
def Obligations.OnlyTheDestinationRegisterChanges : Prop :=
  ∀ (i : Instr) (s t : State), exec i s = .next t →
    (∀ r : EReg, destE i ≠ some r → t.readE r = s.readE r) ∧
    (∀ r : PReg, destP i ≠ some r → t.readP r = s.readP r)

/-- 10_state.md R38 and R39, 20_memory.md R61, 42_ghash.md: only FCMP and PDEG write the flags, only PDEG and PST
write RESULT, only FSTB, FSTI and PST write DMEM, only GINIT, GAD, GCT and GFIN write GHASH state, and CLRERR is
the only command that clears an error. -/
def Obligations.EachPartOfStateHasOnlyItsWriters : Prop :=
  ∀ (i : Instr) (s t : State), exec i s = .next t →
    (writesFlags i = false → SameFlags s t) ∧ (writesResult i = false → SameResult s t) ∧
    (writesDmem i = false → SameMem s t) ∧ (writesGhash i = false → SameGhash s t) ∧
    (i ≠ .clrerr → s.err = true → t.err = true)

/-! Errors -/

/-- 60_exceptions.md R204: when the command in execution raises an error while ERR = 0, then ERR, ERRCODE and ERRCMD
are written, ERRCMD with the command's own word, BUSY falls, and nothing else changes. -/
def Obligations.ErrorEntryChangesOnlyTheErrorState : Prop :=
  ∀ (s t : State) (w : CmdWord), s.inReset = false → s.running = some w → s.err = false →
    engineTurn s = .next t → t.err = true →
    ∃ k : ErrKind, k.code ∈ raisedCodes ∧ t = { s.enterError k w with running := none }

/-- 60_exceptions.md R205: while ERR = 1 every word except exactly 0x04000000 is discarded, and that one clears the
error. -/
def Obligations.ErrorGateDiscardsCommands : Prop :=
  ∀ (w : CmdWord) (s : State), s.err = true →
    (w ≠ 0x04000000 → issue w s = .next s) ∧ issue 0x04000000 s = .next s.clearError

/-! Steps, the bus and reset -/

/-- A step runs the decoded command: when the engine gets on with a legal word in execution that is past the gate,
the step is the effect of the command, after which BUSY is 0 (10_state.md R45, 30_encoding.md R89). The list of
events and when the engine's turn comes are the model's choice (logs 3 and 4). -/
def Obligations.StepRunsTheDecodedCommand : Prop :=
  ∀ (s : State) (w : CmdWord) (i : Instr) (es : List Event), s.inReset = false → s.running = some w →
    (s.events = [] ∧ es = [] ∨ s.events = .engine :: es) → (s.err = false ∨ w = clrerrWord) →
    decode w = .ok i → step s = complete (exec i { s with events := es })

/-- 10_state.md R45 and 70_reset_and_hazards.md R236: a CMD write to an idle engine is taken; one made while BUSY = 1
is held, other accesses wait behind it while the engine gets on, and the held word is then taken. The schedule and
the response field are the model's choice (logs 4, 6 and 10). -/
def Obligations.CmdWritesAreTakenOrHeld : Prop :=
  ∀ (s : State) (w : CmdWord) (es : List Event) (a : HostAccess), s.inReset = false →
    (s.held = none → s.events = .access (.write 4 0x000 w) :: es →
      (s.running = none → step s = .next { s with events := es, running := some w, response := none }) ∧
      (∀ v, s.running = some v →
        step s = .next { s with events := es, held := some w, response := none })) ∧
    (s.held = some w → s.events = .access a :: es →
      (∀ v, s.running = some v → step s = complete (issue v s)) ∧
      (s.running = none → step s = .next { s with running := some w, held := none }))

/-- 70_reset_and_hazards.md R237: while BUSY = 1 the host may read STATUS and PARAM and write CMD; a DMEM byte access
or a read of RESULT or ERRCMD is refused. That the accesses R237 does not list (a read of CMD or of a reserved offset,
a write to another register) are refused too is the model's choice (log 8), as is what STATUS shows beside BUSY
(log 7) and the response field (log 10). -/
def Obligations.BusyAdmitsOnlyStatusParamAndCmd : Prop :=
  ∀ (s : State) (w : CmdWord) (es : List Event) (a : HostAccess), s.inReset = false → s.held = none →
    s.running = some w → s.events = .access a :: es →
    (a = .read 4 0x004 →
      step s = .next { s with events := es, response := some (.word s.statusWord) }) ∧
    (a = .read 4 0x010 →
      step s = .next { s with events := es, response := some (.word s.paramWord) }) ∧
    (∀ v, a = .write 4 0x000 v → step s = .next { s with events := es, held := some v, response := none }) ∧
    (a = .read 4 0x008 ∨ a = .read 4 0x00C → step s = .refused .hostAccessWhileBusy) ∧
    (∀ off, a = .read 4 off → off % 4 = 0 → off < 0x40000 → off ≠ 0x004 → off ≠ 0x010 →
      step s = .refused .hostAccessWhileBusy) ∧
    (∀ off v, a = .write 4 off v → off % 4 = 0 → off < 0x40000 → off ≠ 0x000 →
      step s = .refused .hostAccessWhileBusy) ∧
    (∀ (x : Nat) (v : CmdWord), x < s.params.dmemBytes →
      a = .read 1 (0x40000 + x) ∨ a = .write 1 (0x40000 + x) v → step s = .refused .hostAccessWhileBusy) ∧
    (a ≠ .read 4 0x004 → a ≠ .read 4 0x010 → (∀ v, a ≠ .write 4 0x000 v) → ∃ r, step s = .refused r)

/-- 10_state.md R42 and R47: an idle engine's registers read as the table says, writes to the read-only and reserved
ones are ignored, and an access below 0x40000 that is not an aligned 32-bit word is refused. The response field is
the model's choice (log 10). -/
def Obligations.RegisterWindowOfAnIdleEngine : Prop :=
  ∀ (s : State) (es : List Event) (a : HostAccess), s.inReset = false → s.held = none → s.running = none →
    s.events = .access a :: es →
    (∀ off, a = .read 4 off → off % 4 = 0 → off < 0x40000 →
      step s = .next { s with events := es, response := some (.word
        (if off = 0x004 then s.statusWord else if off = 0x008 then s.result
         else if off = 0x00C then s.errCmd else if off = 0x010 then s.paramWord else 0)) }) ∧
    (∀ off v, a = .write 4 off v → off % 4 = 0 → off < 0x40000 → off ≠ 0x000 →
      step s = .next { s with events := es, response := none }) ∧
    (∀ size off v, a = .read size off ∨ a = .write size off v → off < 0x40000 → size ≠ 4 ∨ off % 4 ≠ 0 →
      step s = .refused .registerAccessNotWord)

/-- 20_memory.md R66: host byte accesses to DMEM of an idle engine; wider ones, and any at or past the end of the
window, are refused. That HOST_DMEM_ACCESS is left unfixed, so that wider ones are refused, and that a byte write
takes the low eight bits of the data, is the model's choice (log 9), as is the response field (log 10). -/
def Obligations.HostReadsAndWritesDmemBytes : Prop :=
  ∀ (s : State) (es : List Event) (acc : HostAccess), s.inReset = false → s.held = none → s.running = none →
    s.events = .access acc :: es →
    (∀ a, a < s.params.dmemBytes → acc = .read 1 (0x40000 + a) →
      step s = .next { s with events := es, response := some (.byte (s.dmemByte a)) }) ∧
    (∀ a v, a < s.params.dmemBytes → acc = .write 1 (0x40000 + a) v →
      ∃ t, step s = .next t ∧ (∀ x, t.dmemByte x = if x = a then v.truncate 8 else s.dmemByte x) ∧
        SameE s t ∧ SameP s t ∧ SameFlags s t ∧ SameResult s t ∧ SameGhash s t ∧ SameError s t) ∧
    (∀ a size v, a < s.params.dmemBytes → size > 1 →
      acc = .read size (0x40000 + a) ∨ acc = .write size (0x40000 + a) v →
      step s = .refused .dmemAccessNotByte) ∧
    (∀ off size v, off ≥ 0x40000 + s.params.dmemBytes → acc = .read size off ∨ acc = .write size off v →
      step s = .refused .accessOutsideWindow)

/-- 10_state.md R42: the fields of STATUS, bit by bit. -/
def Obligations.StatusFieldsStandAtTheirBits : Prop :=
  ∀ s : State, s.statusWord.getLsbD 0 = s.running.isSome ∧ s.statusWord.getLsbD 1 = s.err ∧
    s.statusWord.extractLsb' 2 2 = 0 ∧ s.statusWord.extractLsb' 4 4 = s.errCode ∧
    (s.statusWord.extractLsb' 8 2).toNat =
      (match s.gphase with | .idle => 0 | .ad => 1 | .ct => 2 | .done => 3) ∧
    s.statusWord.extractLsb' 10 2 = 0 ∧ s.statusWord.getLsbD 12 = s.feq ∧ s.statusWord.getLsbD 13 = s.flt ∧
    s.statusWord.extractLsb' 14 18 = 0

/-- 10_state.md R44: PARAM's fields, its default value, and that no step changes it, reset included. -/
def Obligations.ParamIsConstant : Prop :=
  (∀ s : State, s.params.Legal →
    (s.paramWord.extractLsb' 0 8).toNat = s.params.pmaxlen ∧
    (s.paramWord.extractLsb' 8 15).toNat = s.params.dmemBlocks ∧
    s.paramWord.extractLsb' 23 4 = 15 ∧ s.paramWord.extractLsb' 27 4 = 15 ∧
    s.paramWord.getLsbD 31 = false) ∧
  State.reset.paramWord = 0x7F900020 ∧
  (∀ s t : State, step s = .next t → t.params = s.params)

/-- 10_state.md R48: the values right after reset. -/
def Obligations.ResetPutsEveryPieceInItsValue : Prop :=
  (∀ r : EReg, State.reset.readE r = 0) ∧ (∀ r : PReg, State.reset.readP r = [0]) ∧
  State.reset.feq = false ∧ State.reset.flt = false ∧ State.reset.result = 0 ∧
  State.reset.ghH = 0 ∧ State.reset.ghEy0 = 0 ∧ State.reset.ghAcc = 0 ∧
  State.reset.ghAdBits = 0 ∧ State.reset.ghCtBits = 0 ∧ State.reset.gphase = .idle ∧
  State.reset.running = none ∧ State.reset.err = false ∧ State.reset.errCode = 0 ∧
  State.reset.errCmd = 0 ∧ State.reset.held = none ∧ State.reset.statusWord = 0

/-- 70_reset_and_hazards.md R231 and R230: a reset ends a command in execution with none of its effects and discards a
held word; the state is then that of the reset table, PARAM kept; while reset is asserted no command and no host
access has an effect; its release leaves that state. That the table holds from the assertion on and that an access
under reset is dropped with an empty response is the model's choice (logs 10 and 11). -/
def Obligations.ResetDropsTheCommandInExecution : Prop :=
  (∀ (s : State) (es : List Event), s.events = .assertReset :: es →
    ∃ t, step s = .next t ∧ t.e = State.reset.e ∧ t.p = State.reset.p ∧ t.feq = false ∧ t.flt = false ∧
      t.result = 0 ∧ t.ghH = 0 ∧ t.ghEy0 = 0 ∧ t.ghAcc = 0 ∧ t.ghAdBits = 0 ∧ t.ghCtBits = 0 ∧
      t.gphase = .idle ∧ t.err = false ∧ t.errCode = 0 ∧ t.errCmd = 0 ∧ t.running = none ∧ t.held = none ∧
      t.inReset = true ∧ t.params = s.params ∧ t.events = es) ∧
  (∀ s : State, s.inReset = true →
    (∀ a es, s.events = .access a :: es → step s = .next { s with events := es, response := none }) ∧
    (∀ es, s.events = .engine :: es → step s = .next { s with events := es }) ∧
    (∀ es, s.events = .releaseReset :: es → step s = .next { s with events := es, inReset := false }) ∧
    (s.events = [] → step s = .next s))

/-- The invariant holds at reset. -/
def Obligations.ResetMeetsTheInvariant : Prop := State.reset.Inv

/-- Every step keeps the invariant: legal parameters, canonical polynomial registers within PMAXLEN (10_state.md
R36), DMEM in canonical form within DMEM_BYTES, an error state that is 0 while no error is pending and a raised code
otherwise (60_exceptions.md R200), and GHASH state that agrees with its phase (10_state.md R41). -/
def Obligations.EveryStepKeepsTheInvariant : Prop :=
  ∀ s t : State, s.Inv → step s = .next t → t.Inv

/-- Polling STATUS never disturbs a command (10_state.md R46, 70_reset_and_hazards.md R237, R241): after k reads of
STATUS while BUSY = 1, each of which answers, the next step completes the command with the effect it has anyway. The
schedule (log 4), the response field (log 10) and what STATUS shows beside BUSY while BUSY = 1 (log 7) are the
model's choice. -/
def Obligations.PollingStatusDoesNotDisturbTheCommand : Prop :=
  ∀ (k : Nat) (s : State) (w : CmdWord), s.inReset = false → s.held = none → s.running = some w →
    s.events = List.replicate (k + 1) (.access (.read 4 0x004)) →
    Host.Core.run Sys2Proof.core (k + 2) s =
      complete (issue w { s with events := [], response := some (.word s.statusWord) })

/-! Sequences of commands -/

/-- A store followed by a load of the same block (70_reset_and_hazards.md R235; 40_field.md R123, R125): FSTB then
FLDB and FSTI then FLDI give the element back, FSTI then FLDB its bit reversal. -/
def Obligations.StoreThenLoadReturnsTheElement : Prop :=
  ∀ (s : State) (a b : EReg) (blk : Nat), blk + 1 ≤ s.params.dmemBlocks →
    ∃ t u v, exec (.fstb a blk) s = .next t ∧ exec (.fldb b blk) t = .next u ∧ u.readE b = s.readE a ∧
      exec (.fsti a blk) s = .next v ∧
      (∃ x, exec (.fldi b blk) v = .next x ∧ x.readE b = s.readE a) ∧
      (∃ y, exec (.fldb b blk) v = .next y ∧ y.readE b = rev128 (s.readE a))

/-- 41_polynomial.md R159: PST then PLD with the count that RESULT holds gives the polynomial back, wherever the
blocks of the interchange format fit (R157: the zero polynomial has none, so it fits at DMEM_BLOCKS too). -/
def Obligations.PstThenPldReturnsThePolynomial : Prop :=
  ∀ (s : State) (a b : PReg) (blk : Nat), canonical (s.readP a) = true →
    (s.readP a).length ≤ s.params.pmaxlen → s.params.pmaxlen ≤ 255 →
    (if s.readP a = [0] then blk else blk + (s.readP a).length) ≤ s.params.dmemBlocks →
    ∃ t u, exec (.pst a blk) s = .next t ∧ exec (.pld b t.result.toNat blk) t = .next u ∧
      u.readP b = s.readP a ∧ (s.readP a = [0] → t.result = 0)

/-- 42_ghash.md R179: a message of GINIT, GADs, GCTs and GFIN raises no error exactly when the five conditions hold,
and then GH_ACC is GHASH of the concatenated bytes and GTAG gives the tag. The first clause is the padding of
GHASH (R171): ceil(len/16) pieces of 16 bytes, the bytes of the string in order and then zeros. -/
def Obligations.MessageSequenceComputesGhash : Prop :=
  (∀ l : List Byte, (pad16 l).length = (l.length + 15) / 16 ∧
    ∀ j < (l.length + 15) / 16, ((pad16 l).getD j []).length = 16 ∧
      ∀ k < 16, ((pad16 l).getD j []).getD k 0 = if 16 * j + k < l.length then l.getD (16 * j + k) 0 else 0) ∧
  ∀ (s : State) (eH eY : EReg) (ads cts : List (Nat × Nat)), s.err = false →
    ChunksEncodable ads → ChunksEncodable cts →
    ∃ t, issueAll ((messageCommands eH eY ads cts).map encode) s = .next t ∧
      (t.err = false ↔
        ChunksFit s ads ∧ ChunksFit s cts ∧ 8 * (chunkBytes s ads).length ≤ 2 ^ 64 - 1 ∧
          8 * (chunkBytes s cts).length ≤ 2 ^ 64 - 1) ∧
      (t.err = false →
        t.ghAcc = ghash (s.readE eH) (chunkBytes s ads) (chunkBytes s cts) ∧
        ∀ a : EReg, ∃ u, issue (encode (.gtag a)) t = .next u ∧
          elemToBlock (u.readE a) =
            gcmTag (s.readE eH) (s.readE eY) (chunkBytes s ads) (chunkBytes s cts))

/-- Tag verification (42_ghash.md R180): FLDB of the received tag, GTAG into another register and FCMP set FEQ
exactly when the received block is the tag block. -/
def Obligations.TagVerificationSetsFeq : Prop :=
  ∀ (s : State) (a b : EReg) (blk : Nat), s.err = false → s.gphase = .done → a ≠ b → blkFits blk = true →
    blk + 1 ≤ s.params.dmemBlocks →
    ∃ t, issueAll ([Instr.fldb a blk, .gtag b, .fcmp b a].map encode) s = .next t ∧ t.err = false ∧
      (t.feq = true ↔ s.memRead (16 * blk) 16 = elemToBlock (s.ghAcc ^^^ s.ghEy0))

/-- Software re-initialisation (70_reset_and_hazards.md R234). From every state the sequence gives every piece of
engine state but RESULT, DMEM and the GHASH state its reset value; RESULT becomes the degree P0 had, which is its
reset value 0 where P0 has one coefficient and not where it is longer, since PSETC replaces c0 alone
(41_polynomial.md R154). With P0 made zero first, the sequence reaches the reset value of RESULT from every state
as well. That the command rules decide, and the added command, are the model's choice (log 17). -/
def Obligations.ReinitialisationRestoresResetValues : Prop :=
  (∀ s : State, s.params.Legal → ∃ t, issueAll (reinitCommands.map encode) s = .next t ∧ Reinitialised s t ∧
    (canonical (s.readP 0) = true → t.result = BitVec.ofNat 32 ((s.readP 0).length - 1))) ∧
  (∀ s : State, s.params.Legal → (s.readP 0).length = 1 →
    ∃ t, issueAll (reinitCommands.map encode) s = .next t ∧ Reinitialised s t ∧ t.result = 0) ∧
  (∀ s : State, s.params.Legal →
    ∃ t, issueAll (reinitZeroingP0.map encode) s = .next t ∧ Reinitialised s t ∧ t.result = 0) ∧
  (∃ s t : State, s.Inv ∧ issueAll (reinitCommands.map encode) s = .next t ∧ t.result ≠ 0)

/-- The assembler encodes every well-formed command from its written form, and rejects one whose number is outside
its field; each of the eight pseudo-instructions becomes its expansion, PDIVMOD where its registers allow it, and
is rejected elsewhere (30_encoding.md R90, R91). -/
def Obligations.AssemblerEncodesTheWrittenForm : Prop :=
  (∀ i : Instr, i.wellFormed = true → assemble (asmForm i).1 (asmForm i).2 = some [encode i]) ∧
  (∀ i : Instr, i.wellFormed = false → assemble (asmForm i).1 (asmForm i).2 = none) ∧
  (∀ a b c : EReg,
    assemble "FSUB" [.ereg a, .ereg b, .ereg c] = some [encode (.fadd a b c)] ∧
    assemble "FNEG" [.ereg a, .ereg b] = some [encode (.fmov a b)] ∧
    assemble "FSQR" [.ereg a, .ereg b] = some [encode (.fmul a b b)] ∧
    assemble "FZERO" [.ereg a] = some [encode (.fli a 0)] ∧
    assemble "FONE" [.ereg a] = some [encode (.fli a 1)]) ∧
  (∀ a b c : PReg,
    assemble "PSUB" [.preg a, .preg b, .preg c] = some [encode (.padd a b c)] ∧
    assemble "PZERO" [.preg a] = some [encode (.pld a 0 0)]) ∧
  (∀ pq pr pb pc : PReg, assemble "PDIVMOD" [.preg pq, .preg pr, .preg pb, .preg pc] =
    if pr ≠ pb ∧ pr ≠ pc ∧ pq ≠ pr then some [encode (.pmod pr pb pc), encode (.pdiv pq pb pc)] else none)
end

