-- ==== Sys2Proof/Tests/Slice0.lean ====
section
/-! SUPPORT. Tests: decoded words, single commands and host accesses, with their expected results from
95_test_vectors.md or from the examples of the command rules; the refusals of WellFormed; and for each statement
with hypotheses a state that meets them. -/

-- One theorem after another: a hundred kernel evaluations at once would each take a thread of their own.
set_option Elab.async false

open Sys2Proof Sys2Proof.Machine Sys2Proof.Claims

namespace Sys2Proof.Tests

/-- The state after a command word, unchanged if it were not taken. -/
def after (w : CmdWord) (s : State) : State :=
  match issue w s with
  | .next t => t
  | _ => s

/-- Reset with some element registers set. -/
def withE (l : List (EReg × Elem)) : State := l.foldl (fun s c => s.writeE c.1 c.2) State.reset

/-- Reset with some polynomial registers set. -/
def withP (l : List (PReg × List Elem)) : State := l.foldl (fun s c => s.writeP c.1 c.2) State.reset

/-- Reset with bytes stored from an address on. -/
def withMem (addr : Nat) (bytes : List Byte) : State := State.reset.memWrite addr bytes

/-- Reset in a GHASH phase, with the counters given. -/
def inPhase (ph : Phase) (ad ct : BitVec 64) : State :=
  { State.reset with gphase := ph, ghAdBits := ad, ghCtBits := ct }

/-- Sixteen bytes, the first given, the rest 0. -/
def firstByte (b : Byte) : List Byte := b :: List.replicate 15 0

/-- Reset with events to come. -/
def withEvents (l : List Event) : State := { State.reset with events := l }

/-- Reset with a word in execution and events to come. -/
def busyWith (w : CmdWord) (l : List Event) : State :=
  { State.reset with running := some w, events := l }

/-- ERR, ERRCODE and ERRCMD. -/
def errorOf (s : State) : Bool × BitVec 4 × CmdWord := (s.err, s.errCode, s.errCmd)

/-! WellFormed refuses what does not fit (30_encoding.md R84, R90) -/

theorem test_wellFormed_imm : (Instr.fli 0 16384).wellFormed = false := by decide
theorem test_wellFormed_blk : (Instr.fldb 0 16384).wellFormed = false := by decide
theorem test_wellFormed_count : (Instr.pld 0 256 0).wellFormed = false := by decide
theorem test_wellFormed_largest : (Instr.pld 15 255 16383).wellFormed = true := by decide

/-! Decoding: every row of 30_encoding.md R85, words written out from its encoding column -/

theorem test_decode_nop : decode 0b00000000000000000000000000000000 = .ok .nop := by decide
theorem test_decode_clrerr : decode 0b00000100000000000000000000000000 = .ok .clrerr := by decide
theorem test_decode_fadd : decode 0b00100000110001001000000000000000 = .ok (.fadd 3 1 2) := by decide
theorem test_decode_fmul : decode 0b00100100110001001000000000000000 = .ok (.fmul 3 1 2) := by decide
theorem test_decode_fpow : decode 0b00101000110001001000000000000000 = .ok (.fpow 3 1 2) := by decide
theorem test_decode_finv : decode 0b00101100100001000000000000000000 = .ok (.finv 2 1) := by decide
theorem test_decode_fdiv : decode 0b00110000110001001000000000000000 = .ok (.fdiv 3 1 2) := by decide
theorem test_decode_fcmp : decode 0b00110100000001001000000000000000 = .ok (.fcmp 1 2) := by decide
theorem test_decode_fmov : decode 0b00111000000101000000000000000000 = .ok (.fmov 0 5) := by decide
theorem test_decode_fli : decode 0b00111101000000000000000000000001 = .ok (.fli 4 1) := by decide
theorem test_decode_fldb : decode 0b01000000010000000000000000000010 = .ok (.fldb 1 2) := by decide
theorem test_decode_fstb : decode 0b01000100110000000000000000000101 = .ok (.fstb 3 5) := by decide
theorem test_decode_fldi : decode 0b01001000100000000000000000000000 = .ok (.fldi 2 0) := by decide
theorem test_decode_fsti : decode 0b01001100010000000000000000000001 = .ok (.fsti 1 1) := by decide
theorem test_decode_padd : decode 0b10000000110001001000000000000000 = .ok (.padd 3 1 2) := by decide
theorem test_decode_pmul : decode 0b10000100110001001000000000000000 = .ok (.pmul 3 1 2) := by decide
theorem test_decode_pdiv : decode 0b10001000110001001000000000000000 = .ok (.pdiv 3 1 2) := by decide
theorem test_decode_pmod : decode 0b10001100110001001000000000000000 = .ok (.pmod 3 1 2) := by decide
theorem test_decode_pgcd : decode 0b10010000110001001000000000000000 = .ok (.pgcd 3 1 2) := by decide
theorem test_decode_pmonic : decode 0b10010100100001000000000000000000 = .ok (.pmonic 2 1) := by decide
theorem test_decode_pmov : decode 0b10011000000100000000000000000000 = .ok (.pmov 0 4) := by decide
theorem test_decode_pdeg : decode 0b10011100000001000000000000000000 = .ok (.pdeg 1) := by decide
theorem test_decode_psetc : decode 0b10100000010010000000000000000011 = .ok (.psetc 1 2 3) := by decide
theorem test_decode_pgetc : decode 0b10100101010011000000000000000101 = .ok (.pgetc 5 3 5) := by decide
theorem test_decode_pld : decode 0b10101000010000001000000000001000 = .ok (.pld 1 2 8) := by decide
theorem test_decode_pst : decode 0b10101100010000000000000000001000 = .ok (.pst 1 8) := by decide
theorem test_decode_ginit : decode 0b11000000000001001000000000000000 = .ok (.ginit 1 2) := by decide
theorem test_decode_gad : decode 0b11000100000000010100000000000000 = .ok (.gad 5 0) := by decide
theorem test_decode_gct : decode 0b11001000000001000000000000000001 = .ok (.gct 16 1) := by decide
theorem test_decode_gfin : decode 0b11001100000000000000000000000000 = .ok .gfin := by decide
theorem test_decode_gtag : decode 0b11010000110000000000000000000000 = .ok (.gtag 3) := by decide
theorem test_decode_grd : decode 0b11010101000000000000000000000000 = .ok (.grd 4) := by decide
theorem test_decode_reserved : decode 0xB0000000 = .error (.reservedOpcode 0x2C) := by decide
theorem test_decode_mustBeZero : decode 0xAC404008 = .error (.mustBeZero 0x2B) := by decide
theorem test_decodeTableWord : decodeTableWord 32 0xA0480003 = some (.psetc 1 2 3) := by decide
theorem test_encode_pld : encode (.pld 15 255 16383) = 0xABFFFFFF := by decide
theorem test_encode_ginit : encode (.ginit 1 2) = 0xC0048000 := by decide

/-! Control commands and the error mechanism (95_test_vectors.md section 2.4) -/

/-- A pending DivisionByZero of word 0x2C400000, as the vectors set it up. -/
def pending : State := State.reset.enterError .divisionByZero 0x2C400000

theorem test_nop : after 0x00000000 State.reset = State.reset := by decide
theorem test_illegal : errorOf (after 0x00000001 State.reset) = (true, 1, 0x00000001) := by decide
theorem test_clrerr : after 0x04000000 pending = State.reset := by decide
theorem test_clrerr_malformed : after 0x04000001 pending = pending := by decide
theorem test_gate : after 0x20C44000 pending = pending := by decide

/-! Field commands (95_test_vectors.md section 2.1) -/

theorem test_fadd : (after 0x20C48000 (withE [(1, 2), (2, 3)])).readE 3 = 1 := by decide +kernel
theorem test_fadd_same : (after 0x20444000 (withE [(1, 5)])).readE 1 = 0 := by decide +kernel
theorem test_fmul_wraps : (after 0x24C48000 (withE [(1, 0x80000000000000000000000000000000), (2, 2)])).readE 3 = 0x87 := by
  decide +kernel
theorem test_fmul_allOnes :
    (after 0x24444000 (withE [(1, 0xFFFFFFFFFFFFFFFFFFFFFFFFFFFFFFFF)])).readE 1 =
      0x5555555555555555555555555555402F := by decide +kernel
theorem test_fpow_zero_zero : (after 0x28C48000 State.reset).readE 3 = 1 := by decide +kernel
theorem test_fpow_128 : (after 0x28C48000 (withE [(1, 2), (2, 128)])).readE 3 = 0x87 := by decide +kernel
theorem test_finv_one : (after 0x2C840000 (withE [(1, 1)])).readE 2 = 1 := by decide +kernel
theorem test_finv_zero : errorOf (after 0x2C840000 State.reset) = (true, 2, 0x2C840000) := by decide +kernel
theorem test_fdiv_one : (after 0x30C84000 (withE [(1, 1), (2, 7)])).readE 3 = 7 := by decide +kernel
theorem test_fdiv_zero : errorOf (after 0x30C48000 (withE [(1, 5)])) = (true, 2, 0x30C48000) := by
  decide +kernel
theorem test_fcmp_less : ((after 0x34048000 (withE [(1, 1), (2, 2)])).feq,
    (after 0x34048000 (withE [(1, 1), (2, 2)])).flt) = (false, true) := by decide +kernel
theorem test_fcmp_equal : ((after 0x34048000 (withE [(1, 0x87), (2, 0x87)])).feq,
    (after 0x34048000 (withE [(1, 0x87), (2, 0x87)])).flt) = (true, false) := by decide +kernel
theorem test_fmov : (after 0x38140000 (withE [(5, 0x87)])).readE 0 = 0x87 := by decide +kernel
theorem test_fli : (after 0x3D003FFF State.reset).readE 4 = 0x3FFF := by decide +kernel
theorem test_fldb : (after 0x40400000 (withMem 0 (firstByte 0xE1))).readE 1 = 0x87 := by decide +kernel
theorem test_fldb_range : errorOf (after 0x40401000 State.reset) = (true, 7, 0x40401000) := by decide +kernel
theorem test_fstb : (after 0x44C00005 (withE [(3, 0x87)])).memRead 80 16 = firstByte 0xE1 := by decide +kernel
theorem test_fstb_range : errorOf (after 0x44C01000 State.reset) = (true, 7, 0x44C01000) := by decide +kernel
theorem test_fldi :
    (after 0x48800000 (withMem 0 (firstByte 0x80))).readE 2 = 0x80000000000000000000000000000000 := by
  decide +kernel
theorem test_fsti : (after 0x4C400001 (withE [(1, 0x87)])).memRead 16 16 =
    List.replicate 15 0 ++ [0x87] := by decide +kernel

/-! Polynomial commands (95_test_vectors.md section 2.2) -/

theorem test_padd_cancels : (after 0x80C48000 (withP [(1, [1, 5]), (2, [0, 5])])).readP 3 = [1] := by
  decide +kernel
theorem test_pmul : (after 0x84C48000 (withP [(1, [2, 1]), (2, [3, 1])])).readP 3 = [6, 1, 1] := by
  decide +kernel
theorem test_pmul_capacity :
    errorOf (after 0x84444000 (withP [(1, List.replicate 17 1)])) = (true, 6, 0x84444000) := by decide +kernel
theorem test_pdiv : (after 0x88C48000 (withP [(1, [6, 1, 1]), (2, [3, 1])])).readP 3 = [2, 1] := by
  decide +kernel
theorem test_pdiv_zero : errorOf (after 0x88C48000 (withP [(1, [6, 1, 1])])) = (true, 2, 0x88C48000) := by
  decide +kernel
theorem test_pmod : (after 0x8CC48000 (withP [(1, [1, 0, 1]), (2, [2, 1])])).readP 3 = [5] := by decide +kernel
theorem test_pmod_constant : (after 0x8C444000 (withP [(1, [1])])).readP 1 = [0] := by decide +kernel
theorem test_pgcd_zero : errorOf (after 0x90C48000 State.reset) = (true, 2, 0x90C48000) := by decide +kernel
theorem test_pgcd_left : (after 0x90C48000 (withP [(1, [3, 1])])).readP 3 = [3, 1] := by decide +kernel
theorem test_pmonic : (after 0x94840000 (withP [(1, [6, 1, 1])])).readP 2 = [6, 1, 1] := by decide +kernel
theorem test_pmonic_zero : errorOf (after 0x94840000 State.reset) = (true, 2, 0x94840000) := by decide +kernel
theorem test_pmov : (after 0x98100000 (withP [(4, [7])])).readP 0 = [7] := by decide +kernel
theorem test_pdeg : (after 0x9C040000 (withP [(1, [6, 1, 1])])).result = 2 := by decide +kernel
theorem test_pdeg_zero : (after 0x9C040000 State.reset).feq = true := by decide +kernel
theorem test_psetc : (after 0xA0480003 (withE [(2, 1)])).readP 1 = [0, 0, 0, 1] := by decide +kernel
theorem test_psetc_strips : (after 0xA0480002 (withP [(1, [1, 2, 3])])).readP 1 = [1, 2] := by decide +kernel
theorem test_pgetc : (after 0xA54C0000 (withP [(3, [3, 1])])).readE 5 = 3 := by decide +kernel
theorem test_pgetc_beyond : (after 0xA54C0005 ((withP [(3, [3, 1])]).writeE 5 9)).readE 5 = 0 := by
  decide +kernel
theorem test_pld : (after 0xA8408008 (withMem 128 (firstByte 0x40 ++ firstByte 0x80))).readP 1 = [2, 1] := by
  decide +kernel
theorem test_pld_order : errorOf (after 0xA84A0FFF State.reset) = (true, 7, 0xA84A0FFF) := by decide +kernel
theorem test_pst : (after 0xAC400008 (withP [(1, [2, 1])])).memRead 128 32 = firstByte 0x40 ++ firstByte 0x80 := by
  decide +kernel
theorem test_pst_zero : after 0xAC401000 State.reset = State.reset := by decide +kernel

/-! GHASH commands (95_test_vectors.md section 2.3) -/

theorem test_ginit : (after 0xC0048000 ((inPhase .ct 0 8).writeE 1 5)).ghH = 5 := by decide +kernel
theorem test_ginit_clears : (after 0xC0048000 (inPhase .ct 0 8)).ghCtBits = 0 := by decide +kernel
theorem test_gad_sequence : errorOf (after 0xC4040000 State.reset) = (true, 8, 0xC4040000) := by decide +kernel
theorem test_gad_hello :
    (after 0xC4014000 ((withMem 0 [0x68, 0x65, 0x6c, 0x6c, 0x6f]).startMessage
      0x74D42C539A5F3211DC3451F72BD29766 0)).ghAcc =
    blockToElem [0xe5, 0x91, 0x2f, 0x97, 0x8c, 0x61, 0xbc, 0x4a, 0x26, 0x21, 0x4a, 0x4a, 0x54, 0x3a, 0x46, 0x48] := by
  decide +kernel
theorem test_gct_counts : (after 0xC8014000 ((withMem 0 [1, 2, 3, 4, 5]).startMessage 0 0)).ghCtBits = 40 := by
  decide +kernel
theorem test_gct_closed : errorOf (after 0xC8040000 (inPhase .ct 0 40)) = (true, 8, 0xC8040000) := by
  decide +kernel
theorem test_gfin : (after 0xCC000000 (inPhase .ad 0 0)).gphase = .done := by decide +kernel
theorem test_gfin_done : errorOf (after 0xCC000000 (inPhase .done 0 0)) = (true, 8, 0xCC000000) := by
  decide +kernel
theorem test_gtag : (after 0xD0C00000 { inPhase .done 0 0 with ghAcc := 0x87, ghEy0 := 0x1A }).readE 3 = 0x9D := by
  decide +kernel
theorem test_gtag_early : errorOf (after 0xD0C00000 (inPhase .ad 0 0)) = (true, 8, 0xD0C00000) := by
  decide +kernel
theorem test_grd : (after 0xD5000000 { State.reset with ghAcc := 0x87 }).readE 4 = 0x87 := by decide +kernel

/-! The step, the bus and reset (10_state.md R42 to R48, 70_reset_and_hazards.md R230 to R237) -/

/-- The next state of a step, unchanged if there were none. -/
def stepped (s : State) : State :=
  match step s with
  | .next t => t
  | _ => s

theorem test_step_runs_fetched_word :
    (stepped (State.reset.withFetchWord 32 0x3D000001)).readE 4 = 1 := by decide +kernel
theorem test_step_clears_busy : (stepped (State.reset.withFetchWord 32 0x3D000001)).running = none := by
  decide +kernel
theorem test_cmd_write_taken :
    (stepped (withEvents [.access (.write 4 0 0x3D000001)])).running = some 0x3D000001 := by decide +kernel
theorem test_cmd_write_held :
    (stepped (busyWith 0 [.access (.write 4 0 0x3D000001)])).held = some 0x3D000001 := by decide +kernel
theorem test_status_read :
    (stepped ({ pending with events := [.access (.read 4 4)], feq := true })).response =
      some (.word 0x00001022) := by decide +kernel
theorem test_param_read : (stepped (withEvents [.access (.read 4 0x10)])).response =
    some (.word 0x7F900020) := by decide +kernel
theorem test_dmem_byte_write :
    (stepped (withEvents [.access (.write 1 0x40005 0xAB)])).dmemByte 5 = 0xAB := by decide +kernel
theorem test_dmem_write_past_end :
    (match step (withEvents [.access (.write 1 0x50000 0xAB)]) with | .refused r => some r | _ => none) =
      some .accessOutsideWindow := by decide +kernel
theorem test_result_read_while_busy :
    (match step (busyWith 0 [.access (.read 4 8)]) with | .refused r => some r | _ => none) =
      some .hostAccessWhileBusy := by decide +kernel
theorem test_reset_drops_command :
    (stepped (busyWith 0x3D000001 [.assertReset])).running = none := by decide +kernel
theorem test_register_byte_read :
    (match step (withEvents [.access (.read 1 4)]) with | .refused r => some r | _ => none) =
      some .registerAccessNotWord := by decide +kernel

/-! The assembler and disassembler (30_encoding.md R90, R91) -/

theorem test_assemble_fadd : assemble "FADD" [.ereg 3, .ereg 1, .ereg 2] = some [0x20C48000] := by decide +kernel
theorem test_assemble_pdivmod :
    assemble "PDIVMOD" [.preg 1, .preg 2, .preg 3, .preg 4] = some [encode (.pmod 2 3 4), encode (.pdiv 1 3 4)] := by
  decide +kernel
theorem test_assemble_pdivmod_rejected :
    assemble "PDIVMOD" [.preg 1, .preg 3, .preg 3, .preg 4] = none := by decide +kernel
theorem test_assemble_range : assemble "PLD" [.preg 1, .num 256, .num 0] = none := by decide +kernel
theorem test_assembleLine :
    assembleLine [' ', 'p', 'Z', 'e', 'r', 'o', ' ', 'P', '1', ' ', ';', 'x'] = some [0xA8400000] := by
  decide +kernel
theorem test_disassemble_illegal : disassemble 0x3CFFFFFF = ".word 0x3CFFFFFF" := by decide +kernel
theorem test_disassemble_pld : disassemble 0xABFFFFFF = "PLD p15, 255, 16383" := by decide +kernel

/-! For each statement with hypotheses or clauses, states and operands that meet them, at the edges of the ranges -/

theorem witness_DecodeOfEncodeIsTheCommand : (Instr.gad 255 16383).wellFormed = true := by decide

theorem witness_EncodeOfDecodeIsTheWord : decode 0xABFFFFFF = .ok (.pld 15 255 16383) := by decide

theorem witness_WordsOfARowAreThoseItsMaskSelects :
    ("PLD", 0xA8000000, 0xFC000000) ∈ opcodeMap ∧ (0xABFFFFFF : CmdWord) &&& 0xFC000000 = 0xA8000000 ∧
      (0xACFFFFFF : CmdWord) &&& 0xFC000000 ≠ 0xA8000000 := by decide

theorem witness_IllegalWordsRaiseIllegalCommand_reserved :
    State.reset.err = false ∧ ∀ op ∈ [0x02, 0x07, 0x14, 0x1F, 0x2C, 0x2F, 0x36, 0x3F],
      reservedOpcode (opcodeOf (wordN (BitVec.ofNat 6 op))) := by decide

theorem witness_IllegalWordsRaiseIllegalCommand_mustBeZero :
    ("FADD", 0x20000000, 0xFC003FFF) ∈ opcodeMap ∧ State.reset.err = false ∧
      opcodeOf 0x20000001 = opcodeOf 0x20000000 ∧ (0x20000001 : CmdWord) &&& 0xFC003FFF ≠ 0x20000000 := by decide

theorem witness_BlockEncodingReversesEveryBit : (firstByte 0x80).length = 16 ∧ 127 < 128 := by decide

theorem witness_IntegerEncodingAndLengthBlockAreBigEndian_bytes : (firstByte 0x80).length = 16 ∧ 15 < 16 ∧ 7 < 8 := by decide

theorem witness_IntegerEncodingAndLengthBlockAreBigEndian_counts : 2 ^ 64 - 1 < 2 ^ 64 ∧ 0 < 2 ^ 64 := by decide

theorem witness_XorCommutesWithBlockEncoding : (firstByte 0x80).length = 16 := by decide

theorem witness_ElementFormsRoundTrip : ∀ i ∈ [0, 127], i < 128 := by decide

theorem witness_ClmulIsTheCarrylessProduct : 2 ^ 128 - 1 < 2 ^ 128 := by decide

theorem witness_ReduceGivesTheUniqueResidue : 2 ^ 255 - 1 < 2 ^ 255 := by decide

theorem witness_NonzeroElementTimesItsInverseIsOne : (1 : Elem) ≠ 0 ∧ gfmul 0 1 = 0 := by decide +kernel

theorem witness_LongDivisionIdentity :
    canonical [6, 1, 1] = true ∧ canonical [3, 1] = true ∧ ([3, 1] : Poly) ≠ [0] := by decide +kernel

theorem witness_GcdIsMonicAndDividesBoth :
    canonical [6, 1, 1] = true ∧ canonical [0] = true ∧ ¬(([6, 1, 1] : Poly) = [0] ∧ ([0] : Poly) = [0]) := by
  decide +kernel

/-- (Y + 2)(Y + 3) and Y + 2 have the common divisor Y + 2. -/
theorem witness_GcdIsMonicAndDividesBoth_greatest :
    canonical [6, 1, 1] = true ∧ canonical [2, 1] = true ∧ ([2, 1] : Poly) ≠ [0] ∧
      (pdivmod [6, 1, 1] [2, 1]).2 = [0] ∧ (pdivmod [2, 1] [2, 1]).2 = [0] := by decide +kernel

theorem witness_FinvAndFdivDivideOrRaise :
    (withE [(1, 1)]).readE 1 ≠ 0 ∧ (withE [(1, 1)]).readE 2 = 0 := by decide +kernel

theorem witness_FaddFmovFliWriteTheirValue : immFits 16383 = true := by decide

theorem witness_FldbAndFldiReadTheBlock :
    ¬(4095 + 1 > State.reset.params.dmemBlocks) ∧ 4096 + 1 > State.reset.params.dmemBlocks := by decide

theorem witness_FstbAndFstiStoreTheBlock :
    ¬(4095 + 1 > State.reset.params.dmemBlocks) ∧ 4096 + 1 > State.reset.params.dmemBlocks := by decide

/-- P1 has 17 coefficients and P2 has 16: a product of 32 fits, one of 33 does not. -/
def longPolys : State := withP [(1, List.replicate 17 1), (2, List.replicate 16 1)]

theorem witness_PmulConvolvesOrRaises_fits : longPolys.readP 1 ≠ [0] ∧ longPolys.readP 2 ≠ [0] ∧
    ¬((longPolys.readP 1).length + (longPolys.readP 2).length - 1 > longPolys.params.pmaxlen) := by decide +kernel

theorem witness_PmulConvolvesOrRaises_raises : longPolys.readP 1 ≠ [0] ∧
    (longPolys.readP 1).length + (longPolys.readP 1).length - 1 > longPolys.params.pmaxlen := by decide +kernel

theorem witness_PdivAndPmodWriteQuotientAndRemainder : longPolys.PolysGood ∧ longPolys.readP 2 ≠ [0] ∧
    longPolys.readP 3 = [0] := by decide +kernel

theorem witness_PgcdAndPmonicNormaliseOrRaise : longPolys.readP 1 ≠ [0] ∧ longPolys.readP 3 = [0] := by
  decide +kernel

theorem witness_PmovCopiesThePolynomial : canonical (longPolys.readP 1) = true := by decide +kernel

theorem witness_PsetcAndPgetcAccessOneCoefficient_psetc :
    ¬(31 ≥ State.reset.params.pmaxlen) ∧ 32 ≥ State.reset.params.pmaxlen := by decide

theorem witness_PsetcAndPgetcAccessOneCoefficient_pgetc : 16 < (longPolys.readP 1).length ∧ ¬(17 < (longPolys.readP 1).length) := by
  decide +kernel

theorem witness_PldLoadsTheInterchangeFormat :
    4095 + 2 > State.reset.params.dmemBlocks ∧ ¬(4063 + 33 > State.reset.params.dmemBlocks) ∧
      33 > State.reset.params.pmaxlen ∧ ¬(4064 + 32 > State.reset.params.dmemBlocks) ∧
      ¬(32 > State.reset.params.pmaxlen) := by decide

theorem witness_PstStoresTheInterchangeFormat_zero : longPolys.readP 3 = [0] ∧
    ¬(4096 > longPolys.params.dmemBlocks) ∧ 4097 > longPolys.params.dmemBlocks := by decide +kernel

theorem witness_PstStoresTheInterchangeFormat_nonzero : longPolys.readP 1 ≠ [0] ∧
    ¬(4079 + (longPolys.readP 1).length > longPolys.params.dmemBlocks) ∧
      4080 + (longPolys.readP 1).length > longPolys.params.dmemBlocks := by decide +kernel

theorem witness_GadAbsorbsOrRaises_sequence :
    State.reset.gphase ≠ .ad ∧ (inPhase .ad 40 0).ghAdBits.toNat % 128 ≠ 0 := by decide +kernel

theorem witness_GadAbsorbsOrRaises_range : (inPhase .ad 128 0).gphase = .ad ∧
    (inPhase .ad 128 0).ghAdBits.toNat % 128 = 0 ∧ 16 * 4095 + 17 > (inPhase .ad 128 0).params.dmemBytes ∧
      ¬(16 * 4095 + 16 > (inPhase .ad 128 0).params.dmemBytes) := by decide +kernel

theorem witness_GadAbsorbsOrRaises_overflow : (inPhase .ad 0xFFFFFFFFFFFFFF80 0).ghAdBits.toNat % 128 = 0 ∧
    (inPhase .ad 0xFFFFFFFFFFFFFF80 0).ghAdBits.toNat + 8 * 16 > 2 ^ 64 - 1 ∧
      ¬((inPhase .ad 0xFFFFFFFFFFFFFF80 0).ghAdBits.toNat + 8 * 15 > 2 ^ 64 - 1) := by decide +kernel

theorem witness_GctAbsorbsOrRaises_sequence :
    (State.reset.gphase ≠ .ad ∧ State.reset.gphase ≠ .ct) ∧ (inPhase .ct 0 40).ghCtBits.toNat % 128 ≠ 0 := by
  decide +kernel

theorem witness_GctAbsorbsOrRaises_open : (inPhase .ct 0 128).gphase = .ct ∧
    (inPhase .ct 0 128).ghCtBits.toNat % 128 = 0 ∧ 16 * 4095 + 17 > (inPhase .ct 0 128).params.dmemBytes ∧
      ¬(16 * 4095 + 16 > (inPhase .ct 0 128).params.dmemBytes) := by decide +kernel

theorem witness_GctAbsorbsOrRaises_overflow : (inPhase .ct 0 0xFFFFFFFFFFFFFF80).ghCtBits.toNat % 128 = 0 ∧
    (inPhase .ct 0 0xFFFFFFFFFFFFFF80).ghCtBits.toNat + 8 * 16 > 2 ^ 64 - 1 ∧
      ¬((inPhase .ct 0 0xFFFFFFFFFFFFFF80).ghCtBits.toNat + 8 * 15 > 2 ^ 64 - 1) := by decide +kernel

theorem witness_GfinAppliesTheLengthBlock :
    (inPhase .ad 0 0).gphase = .ad ∧ State.reset.gphase ≠ .ad ∧ State.reset.gphase ≠ .ct := by decide +kernel

theorem witness_GtagAndGrdReadTheAccumulator :
    (inPhase .done 0 0).gphase = .done ∧ State.reset.gphase ≠ .done := by decide +kernel

theorem witness_OnlyTheDestinationRegisterChanges :
    exec (.fli 4 1) State.reset = .next (State.reset.writeE 4 1) ∧ destE (.fli 4 1) ≠ some 3 := ⟨rfl, by decide⟩

theorem witness_EachPartOfStateHasOnlyItsWriters : exec .nop pending = .next pending ∧ pending.err = true ∧
    writesFlags .nop = false ∧ writesResult .nop = false ∧ writesDmem .nop = false ∧ writesGhash .nop = false :=
  ⟨rfl, by decide⟩

theorem witness_ErrorEntryChangesOnlyTheErrorState :
    (busyWith 1 []).inReset = false ∧ (busyWith 1 []).running = some 1 ∧ (busyWith 1 []).err = false ∧
      engineTurn (busyWith 1 []) =
        .next { (busyWith 1 []).enterError .illegalCommand 1 with running := none } := ⟨rfl, rfl, rfl, rfl⟩

theorem witness_ErrorGateDiscardsCommands : pending.err = true ∧ (0x04000001 : CmdWord) ≠ 0x04000000 := by decide

theorem witness_StepRunsTheDecodedCommand_idleHost : (busyWith 0x3D000001 []).inReset = false ∧
    (busyWith 0x3D000001 []).running = some 0x3D000001 ∧ (busyWith 0x3D000001 []).events = [] ∧
      (busyWith 0x3D000001 []).err = false ∧ decode 0x3D000001 = .ok (.fli 4 1) := by decide

theorem witness_StepRunsTheDecodedCommand_clrerr : clrerrWord = 0x04000000 ∧ decode clrerrWord = .ok .clrerr ∧
    (busyWith clrerrWord [.engine, .engine]).events = .engine :: [.engine] := by decide

theorem witness_CmdWritesAreTakenOrHeld :
    (withEvents [.access (.write 4 0 7)]).running = none ∧ (withEvents [.access (.write 4 0 7)]).held = none ∧
      (busyWith 1 [.access (.write 4 0 7)]).running = some 1 ∧
      { busyWith 1 [.access (.read 4 4)] with held := some 7 }.held = some 7 ∧
      { withEvents [.access (.read 4 4)] with held := some 7 }.running = none := by decide

theorem witness_BusyAdmitsOnlyStatusParamAndCmd :
    (busyWith 1 [.access (.read 4 0x004)]).events = .access (.read 4 0x004) :: [] ∧
      (busyWith 1 [.access (.read 1 (0x40000 + 65535))]).held = none ∧ 65535 < State.reset.params.dmemBytes := by
  decide

theorem witness_BusyAdmitsOnlyStatusParamAndCmd_others :
    (busyWith 1 [.access (.write 4 0 7)]).running = some 1 ∧ 0x3FFFC % 4 = 0 ∧ 0x3FFFC < 0x40000 ∧
      HostAccess.read 4 0 ≠ .read 4 0x004 ∧ HostAccess.read 4 0 ≠ .read 4 0x010 ∧
      (∀ v, HostAccess.read 4 0 ≠ .write 4 0x000 v) := by simp [busyWith]

theorem witness_RegisterWindowOfAnIdleEngine :
    (withEvents [.access (.read 4 0x3FFFC)]).running = none ∧ 0x3FFFC % 4 = 0 ∧ 0x3FFFC < 0x40000 ∧
      (withEvents [.access (.read 4 0x3FFFE)]).inReset = false ∧ 0x3FFFE % 4 ≠ 0 ∧ 0x3FFFE < 0x40000 := by decide

theorem witness_HostReadsAndWritesDmemBytes :
    (withEvents [.access (.read 1 0x4FFFF)]).running = none ∧ 0xFFFF < State.reset.params.dmemBytes ∧
      0x40000 + 0xFFFF = 0x4FFFF ∧ 0x50000 ≥ 0x40000 + State.reset.params.dmemBytes ∧ 2 > 1 := by decide

theorem witness_ParamIsConstant : State.reset.params.Legal ∧ step State.reset = .next State.reset :=
  ⟨by decide, rfl⟩

theorem witness_ResetDropsTheCommandInExecution_assert :
    (busyWith 1 [.assertReset, .releaseReset]).events = .assertReset :: [.releaseReset] := by decide

theorem witness_ResetDropsTheCommandInExecution_under :
    { withEvents [.access (.write 4 0 7)] with inReset := true }.inReset = true ∧
      { withEvents [.engine] with inReset := true }.events = .engine :: [] := by decide

theorem witness_EveryStepKeepsTheInvariant : (withE [(1, 1)]).Inv ∧ step (withE [(1, 1)]) = .next (withE [(1, 1)]) :=
  ⟨by decide +kernel, rfl⟩

theorem witness_PollingStatusDoesNotDisturbTheCommand :
    (busyWith 1 (List.replicate (3 + 1) (.access (.read 4 0x004)))).running = some 1 ∧
      (busyWith 1 (List.replicate (3 + 1) (.access (.read 4 0x004)))).events =
        List.replicate (3 + 1) (.access (.read 4 0x004)) := by decide

theorem witness_StoreThenLoadReturnsTheElement : 4095 + 1 ≤ State.reset.params.dmemBlocks := by decide

theorem witness_PstThenPldReturnsThePolynomial : canonical (longPolys.readP 1) = true ∧
    (longPolys.readP 1).length ≤ longPolys.params.pmaxlen ∧ longPolys.params.pmaxlen ≤ 255 ∧
      (if longPolys.readP 1 = [0] then 4079 else 4079 + (longPolys.readP 1).length) ≤
        longPolys.params.dmemBlocks := by decide +kernel

theorem witness_PstThenPldReturnsThePolynomial_zero : canonical (longPolys.readP 3) = true ∧
    longPolys.readP 3 = [0] ∧
      (if longPolys.readP 3 = [0] then 4096 else 4096 + (longPolys.readP 3).length) ≤
        longPolys.params.dmemBlocks := by decide +kernel

theorem witness_MessageSequenceComputesGhash : State.reset.err = false ∧ ChunksEncodable [(16, 0), (5, 1)] ∧
    ChunksEncodable [(255, 16)] ∧ ChunksFit State.reset [(16, 0), (5, 1)] ∧ ChunksFit State.reset [(255, 16)] := by
  decide +kernel

theorem witness_TagVerificationSetsFeq : (inPhase .done 0 0).err = false ∧ (inPhase .done 0 0).gphase = .done ∧
    (1 : EReg) ≠ 2 ∧ blkFits 4095 = true ∧ 4095 + 1 ≤ (inPhase .done 0 0).params.dmemBlocks := by decide

theorem witness_ReinitialisationRestoresResetValues :
    (pending.writeE 2 7).params.Legal ∧ ((pending.writeE 2 7).readP 0).length = 1 := by decide +kernel

theorem witness_ReinitialisationRestoresResetValues_longP0 : longPolys.params.Legal ∧
    canonical ((longPolys.writeP 0 [7, 0, 5]).readP 0) = true ∧
      ((longPolys.writeP 0 [7, 0, 5]).readP 0).length - 1 = 2 := by decide +kernel

theorem witness_AssemblerEncodesTheWrittenForm : (Instr.pld 15 255 16383).wellFormed = true ∧
    (Instr.pld 15 256 16383).wellFormed = false := by decide

end Sys2Proof.Tests
end

section
/-! Block encoding and carry-less product (00_scope.md R11 to R13, 20_memory.md R63): the rules of big-endian byte
sequences, of rev128 and of clmul, and the two obligations settled by them. -/

namespace Sys2Proof.Machine

/-! Big-endian byte sequences (R11) -/

@[simp] theorem beValue_nil : beValue [] = 0 := rfl

theorem beValue_concat (s : List Byte) (b : Byte) : beValue (s ++ [b]) = beValue s * 256 + b.toNat := by
  simp [beValue, List.foldl_append]

@[simp] theorem beBytes_zero (v : Nat) : beBytes 0 v = [] := rfl

theorem beBytes_succ (n v : Nat) : beBytes (n + 1) v = beBytes n (v / 256) ++ [BitVec.ofNat 8 v] := by
  have hfront : ∀ k ∈ List.range n,
      BitVec.ofNat 8 (v >>> (8 * (n + 1 - 1 - k))) = BitVec.ofNat 8 ((v / 256) >>> (8 * (n - 1 - k))) := by
    intro k hk
    have hk : k < n := List.mem_range.1 hk
    have hshift : 8 * (n + 1 - 1 - k) = 8 + 8 * (n - 1 - k) := by omega
    rw [hshift, Nat.shiftRight_add, Nat.shiftRight_eq_div_pow v 8]
  simp only [beBytes, List.range_succ, List.map_append, List.map_congr_left hfront]
  simp

theorem beValue_lt (s : List Byte) : beValue s < 256 ^ s.length := by
  induction s using List.reverseRecOn with
  | nil => simp
  | append_singleton s b ih =>
    have hb : b.toNat < 256 := b.isLt
    rw [beValue_concat, List.length_append, List.length_singleton, pow_succ]
    omega

theorem beValue_beBytes (n v : Nat) : beValue (beBytes n v) = v % 256 ^ n := by
  induction n generalizing v with
  | zero => simp [Nat.mod_one]
  | succ n ih =>
    have hlast : (BitVec.ofNat 8 v).toNat = v % 256 := BitVec.toNat_ofNat v 8
    rw [beBytes_succ, beValue_concat, ih, hlast, pow_succ', Nat.mod_mul, Nat.mul_comm, Nat.add_comm]

theorem beBytes_beValue (s : List Byte) : beBytes s.length (beValue s) = s := by
  induction s using List.reverseRecOn with
  | nil => rfl
  | append_singleton s b ih =>
    have hb : b.toNat < 256 := b.isLt
    have hfront : (beValue s * 256 + b.toNat) / 256 = beValue s := by omega
    have hlast : BitVec.ofNat 8 (beValue s * 256 + b.toNat) = b := by
      apply BitVec.eq_of_toNat_eq
      rw [BitVec.toNat_ofNat]
      omega
    rw [List.length_append, List.length_singleton, beValue_concat, beBytes_succ, hfront, hlast, ih]

theorem getLsbD_getD_beBytes {n k j : Nat} (v : Nat) (hk : k < n) (hj : j < 8) :
    ((beBytes n v).getD k 0).getLsbD j = v.testBit (8 * (n - 1 - k) + j) := by
  have hbyte : (beBytes n v).getD k 0 = BitVec.ofNat 8 (v >>> (8 * (n - 1 - k))) := by simp [beBytes, hk]
  rw [hbyte, BitVec.getLsbD_ofNat, decide_eq_true hj, Bool.true_and, Nat.testBit_shiftRight]

/-! rev128 (R12) -/

theorem getLsbD_rev128 (v : Elem) {i : Nat} (hi : i < 128) : (rev128 v).getLsbD i = v.getLsbD (127 - i) := by
  rw [rev128, BitVec.getLsbD_reverse, BitVec.getMsbD_eq_getLsbD, decide_eq_true hi, Bool.true_and]

@[simp] theorem rev128_rev128 (v : Elem) : rev128 (rev128 v) = v := by
  apply BitVec.eq_of_getLsbD_eq
  intro i hi
  have hback : 127 - (127 - i) = i := by omega
  rw [getLsbD_rev128 _ hi, getLsbD_rev128 _ (by omega), hback]

theorem rev128_xor (a b : Elem) : rev128 (a ^^^ b) = rev128 a ^^^ rev128 b := by
  apply BitVec.eq_of_getLsbD_eq
  intro i hi
  simp only [getLsbD_rev128 _ hi, BitVec.getLsbD_xor]

/-! The block encoding (R63) -/

theorem beValue_elemToBlock (x : Elem) : beValue (elemToBlock x) = (rev128 x).toNat := by
  rw [elemToBlock, beValue_beBytes]
  exact Nat.mod_eq_of_lt (rev128 x).isLt

@[simp] theorem blockToElem_elemToBlock (x : Elem) : blockToElem (elemToBlock x) = x := by
  rw [blockToElem, beValue_elemToBlock, BitVec.ofNat_toNat, BitVec.setWidth_eq, rev128_rev128]

theorem elemToBlock_blockToElem {s : List Byte} (hs : s.length = 16) : elemToBlock (blockToElem s) = s := by
  have hlt : beValue s < 2 ^ 128 := by
    have h := beValue_lt s
    rw [hs] at h
    exact h
  calc elemToBlock (blockToElem s)
      = beBytes 16 (BitVec.ofNat 128 (beValue s)).toNat := by rw [elemToBlock, blockToElem, rev128_rev128]
    _ = beBytes s.length (beValue s) := by rw [BitVec.toNat_ofNat, Nat.mod_eq_of_lt hlt, hs]
    _ = s := beBytes_beValue s

theorem getLsbD_elemToBlock (x : Elem) {i : Nat} (hi : i < 128) :
    ((elemToBlock x).getD (i / 8) 0).getLsbD (7 - i % 8) = x.getLsbD i := by
  have hpos : 8 * (16 - 1 - i / 8) + (7 - i % 8) = 127 - i := by omega
  rw [elemToBlock, getLsbD_getD_beBytes _ (by omega) (by omega), hpos, BitVec.testBit_toNat,
    ← getLsbD_rev128 _ hi, rev128_rev128]

theorem getLsbD_blockToElem {s : List Byte} (hs : s.length = 16) {i : Nat} (hi : i < 128) :
    (blockToElem s).getLsbD i = (s.getD (i / 8) 0).getLsbD (7 - i % 8) := by
  rw [← getLsbD_elemToBlock _ hi, elemToBlock_blockToElem hs]

/-- Settles O6, from the bit reading of rev128 and the two round trips of big-endian byte sequences. -/
theorem blockEncodingReversesEveryBit : Obligations.BlockEncodingReversesEveryBit := by
  unfold Obligations.BlockEncodingReversesEveryBit
  refine ⟨fun v _ hi => getLsbD_rev128 v hi, rev128_rev128, rev128_xor, fun x => ?element, fun s hs => ?block⟩
  case element =>
    exact ⟨elemToBlock_length x, beValue_elemToBlock x, blockToElem_elemToBlock x,
      fun _ hi => getLsbD_elemToBlock x hi⟩
  case block =>
    exact ⟨elemToBlock_blockToElem hs, rfl, fun _ hi => getLsbD_blockToElem hs hi⟩

/-! The carry-less product (R13) -/

theorem bitlen_le_iff {v n : Nat} : bitlen v ≤ n ↔ v < 2 ^ n := by
  unfold bitlen
  split
  case isTrue h => simp [h]
  case isFalse h => rw [Nat.succ_le_iff, Nat.log2_lt h]

theorem testBit_eq_false_of_bitlen_le {v i : Nat} (h : bitlen v ≤ i) : v.testBit i = false :=
  Nat.testBit_lt_two_pow (bitlen_le_iff.1 h)

/-- Bits of b past its length add nothing, so any bound at or past the length gives the product. -/
theorem clmulUpTo_eq_clmul (a : Nat) {b n : Nat} (h : bitlen b ≤ n) : clmulUpTo a b n = clmul a b := by
  induction n, h using Nat.le_induction with
  | base => rfl
  | succ n hn ih => simp [clmulUpTo, ih, testBit_eq_false_of_bitlen_le hn]

theorem clmulUpTo_lt {a b p q n : Nat} (ha : a < 2 ^ p) (hn : n + p ≤ q + 1) : clmulUpTo a b n < 2 ^ q := by
  induction n with
  | zero => exact Nat.two_pow_pos q
  | succ n ih =>
    have hshift : a <<< n < 2 ^ q :=
      calc a <<< n < 2 ^ (p + n) := by
            rw [Nat.shiftLeft_eq, pow_add]
            exact Nat.mul_lt_mul_of_pos_right ha (Nat.two_pow_pos n)
        _ ≤ 2 ^ q := Nat.pow_le_pow_right (by decide) (by omega)
    refine Nat.xor_lt_two_pow (ih (by omega)) ?_
    split
    · exact hshift
    · exact Nat.two_pow_pos q

/-- Each pass flips bit k exactly when it adds a pair of set bits at positions i and k - i. -/
theorem testBit_clmulUpTo (a b n k : Nat) : (clmulUpTo a b n).testBit k =
    decide ((List.range n).countP (fun i => b.testBit i && (decide (i ≤ k) && a.testBit (k - i))) % 2 = 1) := by
  induction n with
  | zero => simp [clmulUpTo]
  | succ n ih =>
    have hterm : (if b.testBit n then a <<< n else 0).testBit k =
        (b.testBit n && (decide (n ≤ k) && a.testBit (k - n))) := by
      cases b.testBit n <;> simp [Nat.testBit_shiftLeft]
    rw [clmulUpTo, Nat.testBit_xor, ih, hterm, List.range_succ, List.countP_append, List.countP_singleton]
    cases b.testBit n && (decide (n ≤ k) && a.testBit (k - n)) with
    | false => simp
    | true =>
      rw [Bool.xor_true, if_pos rfl, ← decide_not, decide_eq_decide]
      omega

/-- Only positions up to k count towards bit k. -/
theorem countP_pairs_upTo (a b k d : Nat) :
    (List.range (k + 1 + d)).countP (fun i => b.testBit i && (decide (i ≤ k) && a.testBit (k - i))) =
      (List.range (k + 1)).countP (fun i => b.testBit i && a.testBit (k - i)) := by
  have hbelow : ∀ i ∈ List.range (k + 1), (b.testBit i && (decide (i ≤ k) && a.testBit (k - i))) = true ↔
      (b.testBit i && a.testBit (k - i)) = true := by
    intro i hi
    have hik : i ≤ k := Nat.lt_succ_iff.1 (List.mem_range.1 hi)
    simp [hik]
  have habove : ((List.range d).map (k + 1 + ·)).countP
      (fun i => b.testBit i && (decide (i ≤ k) && a.testBit (k - i))) = 0 := by
    refine List.countP_eq_zero.2 fun i hi => ?_
    obtain ⟨j, -, rfl⟩ := List.mem_map.1 hi
    have hjk : ¬ k + 1 + j ≤ k := by omega
    rw [decide_eq_false hjk]
    simp
  rw [List.range_add, List.countP_append, List.countP_congr hbelow, habove, Nat.add_zero]

theorem testBit_clmul (a b k : Nat) : (clmul a b).testBit k =
    decide ((List.range (k + 1)).countP (fun i => b.testBit i && a.testBit (k - i)) % 2 = 1) := by
  rw [← clmulUpTo_eq_clmul a (Nat.le_add_left (bitlen b) (k + 1)), testBit_clmulUpTo, countP_pairs_upTo]

theorem clmul_lt {a b p n q : Nat} (ha : a < 2 ^ p) (hb : b < 2 ^ n) (hq : n + p ≤ q + 1) : clmul a b < 2 ^ q := by
  rw [← clmulUpTo_eq_clmul a (bitlen_le_iff.2 hb)]
  exact clmulUpTo_lt ha hq

/-- Settles O10, by induction on the passes of clmul: the parity of the pairs, and the width of every shift. -/
theorem clmulIsTheCarrylessProduct : Obligations.ClmulIsTheCarrylessProduct := by
  unfold Obligations.ClmulIsTheCarrylessProduct
  exact ⟨testBit_clmul, fun _ _ ha hb => clmul_lt ha hb (by decide)⟩

end Sys2Proof.Machine
end

section
/-! What a transition keeps (10_state.md R44, R49): every way a command can leave the state, said once; that a command
leaves the bus side of the state alone; and PARAM, whose parameters no transition changes. -/

namespace Sys2Proof.Machine

/-! Every way a command can leave the state -/

/-- What a command past the error gate can do to the state, by the named updates it is made of. -/
inductive CommandEffect (i : Instr) (s : State) : State → Prop
  /-- NOP -/
  | unchanged : CommandEffect i s s
  /-- CLRERR -/
  | clearsError : CommandEffect i s s.clearError
  /-- every command that raises -/
  | fails (k : ErrKind) : CommandEffect i s (s.enterError k (encode i))
  /-- a destination E[a] -/
  | writesE (a : EReg) (v : Elem) : CommandEffect i s (s.writeE a v)
  /-- a destination P[a] -/
  | writesP (a : PReg) (q : List Elem) : CommandEffect i s (s.writeP a q)
  /-- FCMP -/
  | compares (x y : Bool) : CommandEffect i s (s.setFlags x y)
  /-- PDEG -/
  | measures (n : Nat) (x y : Bool) : CommandEffect i s ((s.setResult n).setFlags x y)
  /-- FSTB and FSTI -/
  | stores (addr : Nat) (bytes : List Byte) : CommandEffect i s (s.memWrite addr bytes)
  /-- PST -/
  | storesCounted (addr : Nat) (bytes : List Byte) (n : Nat) :
    CommandEffect i s ((s.memWrite addr bytes).setResult n)
  /-- GINIT -/
  | startsMessage (h ey0 : Elem) : CommandEffect i s (s.startMessage h ey0)
  /-- GAD -/
  | absorbsAd (v : Elem) (k : Nat) : CommandEffect i s ((s.setAcc v).addAdBits k)
  /-- GCT -/
  | absorbsCt (v : Elem) (k : Nat) : CommandEffect i s (((s.setAcc v).addCtBits k).setPhase .ct)
  /-- GFIN -/
  | finishes (v : Elem) : CommandEffect i s ((s.setAcc v).setPhase .done)

/-- The outcome is a next state, and one that the command can leave. -/
def Answers (i : Instr) (s : State) (o : Host.Outcome State Fault Refusal) : Prop :=
  ∃ t, o = .next t ∧ CommandEffect i s t

theorem CommandEffect.answers {i : Instr} {s t : State} (h : CommandEffect i s t) : Answers i s (.next t) :=
  ⟨t, rfl, h⟩

theorem answers_raise (k : ErrKind) (i : Instr) (s : State) : Answers i s (raise k i s) :=
  (CommandEffect.fails k).answers

/-- A check that raises where its condition holds. -/
theorem Answers.raiseIf {i : Instr} {s : State} {o : Host.Outcome State Fault Refusal} {c : Prop} [Decidable c]
    {k : ErrKind} (h : Answers i s o) : Answers i s (if c then raise k i s else o) := by
  split
  · exact answers_raise k i s
  · exact h

/-- A check that raises where its condition fails. -/
theorem Answers.raiseUnless {i : Instr} {s : State} {o : Host.Outcome State Fault Refusal} {c : Prop} [Decidable c]
    {k : ErrKind} (h : Answers i s o) : Answers i s (if c then o else raise k i s) := by
  split
  · exact h
  · exact answers_raise k i s

theorem exec_answers (i : Instr) (s : State) : Answers i s (exec i s) := by
  cases i with
  | nop => exact CommandEffect.unchanged.answers
  | clrerr => exact CommandEffect.clearsError.answers
  | fadd | fmul | fpow | fmov | fli | pgetc | grd => exact (CommandEffect.writesE _ _).answers
  | finv | fdiv => exact (CommandEffect.writesE _ _).answers.raiseIf
  | fldb | fldi | gtag => exact (CommandEffect.writesE _ _).answers.raiseUnless
  | fcmp => exact (CommandEffect.compares _ _).answers
  | fstb | fsti => exact (CommandEffect.stores _ _).answers.raiseUnless
  | padd | pmov => exact (CommandEffect.writesP _ _).answers
  | pmul | pdiv | pmod | pgcd | pmonic | psetc => exact (CommandEffect.writesP _ _).answers.raiseIf
  | pld => exact (CommandEffect.writesP _ _).answers.raiseIf.raiseUnless
  | pdeg => exact (CommandEffect.measures _ _ _).answers
  | pst => exact (CommandEffect.storesCounted _ _ _).answers.raiseUnless
  | ginit => exact (CommandEffect.startsMessage _ _).answers
  | gad => exact (CommandEffect.absorbsAd _ _).answers.raiseIf.raiseIf.raiseIf.raiseIf
  | gct => exact (CommandEffect.absorbsCt _ _).answers.raiseIf.raiseIf.raiseIf.raiseIf
  | gfin => exact (CommandEffect.finishes _).answers.raiseUnless

theorem exec_next_effect {i : Instr} {s t : State} (h : exec i s = .next t) : CommandEffect i s t := by
  obtain ⟨u, hu, heff⟩ := exec_answers i s
  cases hu.symm.trans h
  exact heff

/-! A command leaves the bus side of the state alone -/

theorem CommandEffect.sameBus {i : Instr} {s t : State} (h : CommandEffect i s t) : SameBus s t := by
  cases h <;> simp [SameBus]

theorem issue_next_sameBus {w : CmdWord} {s t : State} (h : issue w s = .next t) : SameBus s t := by
  obtain ⟨-, hdiscarded⟩ | ⟨i, -, -, hexec⟩ | ⟨x, -, -, hillegal⟩ := issue_cases w s
  · cases hdiscarded.symm.trans h
    simp [SameBus]
  · exact (exec_next_effect (hexec.symm.trans h)).sameBus
  · cases hillegal.symm.trans h
    simp [SameBus]

/-! No transition changes the parameters -/

theorem engineTurn_next_params {s t : State} (h : engineTurn s = .next t) : t.params = s.params := by
  obtain ⟨-, hreset⟩ | ⟨w, -, -, hcompletes⟩ | ⟨w, -, -, -, htakes⟩ | ⟨-, -, -, hidle⟩ := engineTurn_cases s
  · cases hreset.symm.trans h
    rfl
  · obtain ⟨u, hissue, rfl⟩ := complete_eq_next (hcompletes.symm.trans h)
    obtain ⟨hparams, -⟩ := issue_next_sameBus hissue
    exact hparams
  · cases htakes.symm.trans h
    rfl
  · cases hidle.symm.trans h
    rfl

@[simp] theorem State.writeCmd_params (s : State) (w : CmdWord) : (s.writeCmd w).params = s.params := by
  obtain ⟨-, h⟩ | ⟨-, h⟩ := s.writeCmd_cases w <;> rw [h]

theorem hostAccess_next_params {a : HostAccess} {s t : State} (h : hostAccess a s = .next t) :
    t.params = s.params := by
  cases a with
  | read size off =>
    obtain ⟨r, rfl⟩ := windowRead_next h
    rfl
  | write size off data =>
    obtain ⟨-, rfl⟩ | rfl | ⟨-, -, rfl⟩ := windowWrite_next h
    · exact s.writeCmd_params data
    · rfl
    · rfl

theorem step_next_params {s t : State} (h : step s = .next t) : t.params = s.params := by
  obtain ⟨-, hidle⟩ | ⟨es, -, hengine⟩ | ⟨es, -, hassert⟩ | ⟨es, -, hrelease⟩ | ⟨a, es, -, -, hdropped⟩ |
    ⟨a, es, -, -, -, hwaiting⟩ | ⟨a, es, -, -, -, haccess⟩ := advance_cases s
  · exact engineTurn_next_params (hidle.symm.trans h)
  · exact (engineTurn_next_params (hengine.symm.trans h) :)
  · cases hassert.symm.trans h
    rfl
  · cases hrelease.symm.trans h
    rfl
  · cases hdropped.symm.trans h
    rfl
  · exact engineTurn_next_params (hwaiting.symm.trans h)
  · exact (hostAccess_next_params (haccess.symm.trans h) :)

/-! The fields of PARAM (R44) -/

theorem extractLsb'_paramWord_pmaxlen (s : State) :
    s.paramWord.extractLsb' 0 8 = BitVec.ofNat 8 s.params.pmaxlen :=
  BitVec.extractLsb'_append_eq_right

theorem extractLsb'_paramWord_dmemBlocks (s : State) :
    s.paramWord.extractLsb' 8 15 = BitVec.ofNat 15 s.params.dmemBlocks := by
  rw [State.paramWord, BitVec.extractLsb'_append_eq_of_le (by decide)]
  exact BitVec.extractLsb'_append_eq_right

/-- From bit 23 up PARAM is NE-1, NP-1 and bit 31, whatever the parameters are. -/
theorem extractLsb'_paramWord_above (s : State) {start : Nat} (len : Nat) (h : 23 ≤ start) :
    s.paramWord.extractLsb' start len = (0#1 ++ 15#4 ++ 15#4).extractLsb' (start - 23) len := by
  have hpmaxlen : 8 ≤ start := by omega
  have hblocks : 15 ≤ start - 8 := by omega
  rw [State.paramWord, BitVec.extractLsb'_append_eq_of_le hpmaxlen, BitVec.extractLsb'_append_eq_of_le hblocks,
    Nat.sub_sub]

theorem getLsbD_paramWord_31 (s : State) : s.paramWord.getLsbD 31 = false := by
  have hbit : (s.paramWord.extractLsb' 31 1).getLsbD 0 = false := by
    rw [extractLsb'_paramWord_above s 1 (by decide)]
    decide
  simpa using hbit

theorem paramWord_fields_of_legal {s : State} (h : s.params.Legal) :
    (s.paramWord.extractLsb' 0 8).toNat = s.params.pmaxlen ∧
    (s.paramWord.extractLsb' 8 15).toNat = s.params.dmemBlocks ∧
    s.paramWord.extractLsb' 23 4 = 15 ∧ s.paramWord.extractLsb' 27 4 = 15 ∧
    s.paramWord.getLsbD 31 = false := by
  obtain ⟨⟨-, hpmaxlen⟩, -, hblocks⟩ := h
  refine ⟨?_, ?_, ?_, ?_, getLsbD_paramWord_31 s⟩
  · rw [extractLsb'_paramWord_pmaxlen, BitVec.toNat_ofNat, Nat.mod_eq_of_lt (by omega)]
  · rw [extractLsb'_paramWord_dmemBlocks, BitVec.toNat_ofNat, Nat.mod_eq_of_lt (by omega)]
  · rw [extractLsb'_paramWord_above s 4 (by decide)]
    decide
  · rw [extractLsb'_paramWord_above s 4 (by decide)]
    decide

/-- Settles O49: a legal parameter fits its field of PARAM, and no case of a step writes the parameters. -/
theorem paramIsConstant : Obligations.ParamIsConstant := by
  unfold Obligations.ParamIsConstant
  exact ⟨fun _ h => paramWord_fields_of_legal h, by decide, fun _ _ h => step_next_params h⟩

end Sys2Proof.Machine
end

section
/-! Integer encoding and length block (20_memory.md R64, R65): the rules of elemToInt, intToElem and lenBlock, each
drawn from the rules of big-endian byte sequences (00_scope.md R11), and the obligation settled by them. -/

namespace Sys2Proof.Machine

/-! The integer encoding (R64) -/

theorem beValue_elemToInt (x : Elem) : beValue (elemToInt x) = x.toNat := by
  rw [elemToInt, beValue_beBytes]
  exact Nat.mod_eq_of_lt x.isLt

/-- The bytes stand most significant first, and no byte is reversed. -/
theorem getLsbD_elemToInt (x : Elem) {k j : Nat} (hk : k < 16) (hj : j < 8) :
    ((elemToInt x).getD k 0).getLsbD j = x.getLsbD (8 * (15 - k) + j) := by
  rw [elemToInt, getLsbD_getD_beBytes _ hk hj, BitVec.testBit_toNat]

/-- Sixteen bytes fill an element exactly, so nothing is cut off. -/
theorem toNat_intToElem {s : List Byte} (hs : s.length = 16) : (intToElem s).toNat = beValue s := by
  have hlt : beValue s < 256 ^ 16 := hs ▸ beValue_lt s
  rw [intToElem, BitVec.toNat_ofNat]
  exact Nat.mod_eq_of_lt hlt

theorem elemToInt_intToElem {s : List Byte} (hs : s.length = 16) : elemToInt (intToElem s) = s :=
  calc elemToInt (intToElem s)
      = beBytes s.length (beValue s) := by rw [elemToInt, toNat_intToElem hs, hs]
    _ = s := beBytes_beValue s

/-! The length block (R65) -/

@[simp] theorem lenBlock_length (a c : Nat) : (lenBlock a c).length = 16 := by simp [lenBlock]

theorem take_lenBlock (a c : Nat) : (lenBlock a c).take 8 = beBytes 8 a :=
  List.take_left' (beBytes_length 8 a)

theorem drop_lenBlock (a c : Nat) : (lenBlock a c).drop 8 = beBytes 8 c :=
  List.drop_left' (beBytes_length 8 a)

/-- A 64-bit count is the value of its eight bytes. -/
theorem beValue_beBytes_count {v : Nat} (hv : v < 2 ^ 64) : beValue (beBytes 8 v) = v := by
  rw [beValue_beBytes]
  exact Nat.mod_eq_of_lt hv

/-- Settles O7: the encoding and its inverse from the two round trips of big-endian byte sequences, and the length
block half by half. -/
theorem integerEncodingAndLengthBlockAreBigEndian : Obligations.IntegerEncodingAndLengthBlockAreBigEndian := by
  unfold Obligations.IntegerEncodingAndLengthBlockAreBigEndian
  refine ⟨fun x => ?encode, fun s hs => ?decode, fun a c ha hc => ?counts⟩
  case encode =>
    exact ⟨elemToInt_length x, beValue_elemToInt x, fun _ hk _ hj => getLsbD_elemToInt x hk hj⟩
  case decode =>
    exact ⟨toNat_intToElem hs, elemToInt_intToElem hs⟩
  case counts =>
    rw [take_lenBlock, drop_lenBlock]
    exact ⟨lenBlock_length a c, beValue_beBytes_count ha, beValue_beBytes_count hc⟩

end Sys2Proof.Machine
end

section
/-! Illegal words (30_encoding.md R85 to R87): which opcodes have a row and which row that is, which words the decoder
rejects, and the obligation settled by them. -/

namespace Sys2Proof.Machine

open Sys2Proof.Claims

/-! The row of an opcode (R85, R87) -/

theorem opcode_not_reserved_of_mem_opRows : ∀ r ∈ opRows, ¬ reservedOpcode r.opcode := by decide

theorem opRowOf_eq_none_of_reserved {op : Nat} (h : reservedOpcode op) : opRowOf op = none := by
  rw [opRowOf, List.find?_eq_none]
  intro r hr hop
  rw [← eq_of_beq hop] at h
  exact opcode_not_reserved_of_mem_opRows r hr h

/-- Under the opcode of a printed match the decoder finds the match and mask printed in the same row. -/
theorem map_opRowOf_of_mem_opcodeMap : ∀ row ∈ opcodeMap,
    (opRowOf (opcodeOf row.2.1)).map (fun r => (r.pattern, r.mask)) = some row.2 := by decide

theorem exists_opRowOf_of_mem_opcodeMap {row : String × CmdWord × CmdWord} (hrow : row ∈ opcodeMap) :
    ∃ r, opRowOf (opcodeOf row.2.1) = some r ∧ r.pattern = row.2.1 ∧ r.mask = row.2.2 := by
  obtain ⟨r, hr, hfixed⟩ := Option.map_eq_some_iff.1 (map_opRowOf_of_mem_opcodeMap row hrow)
  obtain ⟨hpattern, hmask⟩ := Prod.ext_iff.1 hfixed
  exact ⟨r, hr, hpattern, hmask⟩

/-! The words the decoder rejects (R86, R87, R89) -/

theorem decode_of_opRowOf_none {w : CmdWord} (h : opRowOf (opcodeOf w) = none) :
    decode w = .error (.reservedOpcode (opcodeOf w)) := by simp [decode, h]

theorem decode_of_mask_mismatch {w : CmdWord} {r : OpRow} (hr : opRowOf (opcodeOf w) = some r)
    (hw : w &&& r.mask ≠ r.pattern) : decode w = .error (.mustBeZero (opcodeOf w)) := by simp [decode, hr, hw]

theorem decode_of_reserved {w : CmdWord} (h : reservedOpcode (opcodeOf w)) :
    decode w = .error (.reservedOpcode (opcodeOf w)) :=
  decode_of_opRowOf_none (opRowOf_eq_none_of_reserved h)

/-- A word with the opcode of a printed row that disagrees with the row's match has a 1 in a must-be-zero bit. -/
theorem decode_of_row_mismatch {row : String × CmdWord × CmdWord} (hrow : row ∈ opcodeMap) {w : CmdWord}
    (hop : opcodeOf w = opcodeOf row.2.1) (hw : w &&& row.2.2 ≠ row.2.1) :
    decode w = .error (.mustBeZero (opcodeOf w)) := by
  obtain ⟨r, hr, hpattern, hmask⟩ := exists_opRowOf_of_mem_opcodeMap hrow
  rw [← hpattern, ← hmask] at hw
  exact decode_of_mask_mismatch (hop ▸ hr) hw

/-! Issuing a rejected word -/

/-- With no error pending the gate lets every word through (60_exceptions.md R205). -/
theorem gateDiscards_of_err_false {s : State} (h : s.err = false) (w : CmdWord) : s.gateDiscards w = false := by
  simp [State.gateDiscards, h]

/-- Settles O4: a reserved opcode has no row and a printed row is the decoder's, so the decoder rejects both kinds of
word, and a rejected word that passes the gate enters IllegalCommand. -/
theorem illegalWordsRaiseIllegalCommand : Obligations.IllegalWordsRaiseIllegalCommand := by
  unfold Obligations.IllegalWordsRaiseIllegalCommand
  refine ⟨fun w s herr hreserved => ?reserved, by decide, fun row hrow w s herr hop hw => ?mustBeZero, rfl⟩
  case reserved => exact issue_illegal (gateDiscards_of_err_false herr w) (decode_of_reserved hreserved)
  case mustBeZero => exact issue_illegal (gateDiscards_of_err_false herr w) (decode_of_row_mismatch hrow hop hw)

end Sys2Proof.Machine
end

section
/-! Forms of an element (40_field.md R128, R129): XOR bit by bit through the block encoding, the exponent-set form and
its inverse (00_scope.md R17), and the two obligations settled by them. -/

namespace Sys2Proof.Machine

/-! XOR of blocks (R128) -/

theorem beBytes_xor (n u v : Nat) : beBytes n (u ^^^ v) = List.zipWith (· ^^^ ·) (beBytes n u) (beBytes n v) := by
  simp only [beBytes, List.zipWith_map, List.zipWith_self, Nat.shiftRight_xor_distrib, BitVec.ofNat_xor]

theorem elemToBlock_xor (a b : Elem) :
    elemToBlock (a ^^^ b) = List.zipWith (· ^^^ ·) (elemToBlock a) (elemToBlock b) := by
  rw [elemToBlock, rev128_xor, BitVec.toNat_xor, beBytes_xor, elemToBlock, elemToBlock]

theorem xor_blockToElem (x : Elem) {B : List Byte} (hB : B.length = 16) :
    x ^^^ blockToElem B = blockToElem (List.zipWith (· ^^^ ·) (elemToBlock x) B) :=
  calc x ^^^ blockToElem B
      = blockToElem (elemToBlock (x ^^^ blockToElem B)) := (blockToElem_elemToBlock _).symm
    _ = blockToElem (List.zipWith (· ^^^ ·) (elemToBlock x) B) := by
        rw [elemToBlock_xor, elemToBlock_blockToElem hB]

/-- Settles O8: rev128 and every byte of a big-endian sequence are linear over XOR, and the block encoding is onto the
16-byte blocks. -/
theorem xorCommutesWithBlockEncoding : Obligations.XorCommutesWithBlockEncoding := by
  unfold Obligations.XorCommutesWithBlockEncoding
  exact ⟨elemToBlock_xor, fun x _ hB => xor_blockToElem x hB,
    fun h ey0 ad ct => elemToBlock_xor (ghash h ad ct) ey0⟩

/-! The integer form and the exponent-set form (R129) -/

@[simp] theorem intToElem_elemToInt (x : Elem) : intToElem (elemToInt x) = x := by
  rw [intToElem, beValue_elemToInt, BitVec.ofNat_toNat, BitVec.setWidth_eq]

theorem mem_exps (x : Elem) (i : Nat) : i ∈ exps x ↔ i < 128 ∧ x.getLsbD i = true := by
  rw [exps, List.mem_filter, List.mem_range]

theorem exps_pairwise_lt (x : Elem) : (exps x).Pairwise (· < ·) := List.pairwise_lt_range.filter _

theorem getLsbD_foldl_or_twoPow (l : List Nat) (acc : Elem) {i : Nat} (hi : i < 128) :
    (l.foldl (fun acc j => acc ||| BitVec.twoPow 128 j) acc).getLsbD i = true ↔ acc.getLsbD i = true ∨ i ∈ l := by
  induction l generalizing acc with
  | nil => simp
  | cons j l ih =>
    have hbit : (BitVec.twoPow 128 j).getLsbD i = true ↔ i = j := by
      rw [BitVec.getLsbD_twoPow, Bool.and_eq_true, decide_eq_true_iff, decide_eq_true_iff]
      omega
    rw [List.foldl_cons, ih, BitVec.getLsbD_or, Bool.or_eq_true, hbit, List.mem_cons, or_assoc]

theorem getLsbD_fromExps (l : List Nat) {i : Nat} (hi : i < 128) : (fromExps l).getLsbD i = true ↔ i ∈ l := by
  rw [fromExps, getLsbD_foldl_or_twoPow l 0 hi]
  simp

@[simp] theorem fromExps_exps (x : Elem) : fromExps (exps x) = x := by
  apply BitVec.eq_of_getLsbD_eq
  intro i hi
  rw [Bool.eq_iff_iff, getLsbD_fromExps _ hi, mem_exps]
  exact and_iff_right hi

/-- Settles O9: an element has the bits of its exponent set, and the fold of fromExps sets exactly the bits listed. -/
theorem elementFormsRoundTrip : Obligations.ElementFormsRoundTrip := by
  unfold Obligations.ElementFormsRoundTrip
  refine ⟨fun x => ⟨blockToElem_elemToBlock x, intToElem_elemToInt x, fromExps_exps x⟩,
    fun x => ⟨exps_pairwise_lt x, mem_exps x⟩, fun l hl i => ?members⟩
  case members =>
    by_cases hi : i < 128
    · exact getLsbD_fromExps l hi
    · have hbit : (fromExps l).getLsbD i = false := BitVec.getLsbD_of_ge _ _ (not_lt.1 hi)
      have hmem : i ∉ l := fun h => hi (hl i h)
      simp [hbit, hmem]

end Sys2Proof.Machine
end

section
/-! The field as polynomials over GF(2) (40_field.md R111 to R113): what toGF2 makes of XOR, shift and the carry-less
product; that reduce finds the residue modulo the reduction polynomial; the field operations as those of the quotient
ring by it; and the three obligations settled by them. -/

namespace Sys2Proof.Machine

open Sys2Proof.Claims

/-! Numbers as polynomials over GF(2) (00_scope.md R10) -/

theorem coeff_toGF2 (v i : Nat) : (toGF2 v).coeff i = if v.testBit i then 1 else 0 := by
  have hterm : ∀ j, (if v.testBit j then (Polynomial.X ^ j : Polynomial (ZMod 2)) else 0).coeff i =
      if i = j then (if v.testBit i then 1 else 0) else 0 := by
    intro j
    by_cases hij : i = j
    · subst hij; cases v.testBit i <;> simp
    · cases v.testBit j <;> simp [Polynomial.coeff_X_pow, hij]
  rw [toGF2, Polynomial.finsetSum_coeff, Finset.sum_congr rfl fun j _ => hterm j, Finset.sum_ite_eq]
  split
  case isTrue => rfl
  case isFalse h =>
    have hlen : bitlen v ≤ i := not_lt.1 (mt Finset.mem_range.2 h)
    simp [testBit_eq_false_of_bitlen_le hlen]

theorem toGF2_injective : Function.Injective toGF2 := by
  intro u v h
  apply Nat.eq_of_testBit_eq
  intro i
  have hcoeff := congrArg (fun p => p.coeff i) h
  simp only [coeff_toGF2] at hcoeff
  cases hu : u.testBit i <;> cases hv : v.testBit i <;> simp [hu, hv] at hcoeff ⊢

theorem degree_toGF2_lt {v n : Nat} (h : v < 2 ^ n) : (toGF2 v).degree < n := by
  rw [Polynomial.degree_lt_iff_coeff_zero]
  intro i hi
  simp [coeff_toGF2, testBit_eq_false_of_bitlen_le ((bitlen_le_iff.2 h).trans hi)]

@[simp] theorem toGF2_zero : toGF2 0 = 0 := by
  ext i
  simp [coeff_toGF2]

theorem toGF2_xor (u v : Nat) : toGF2 (u ^^^ v) = toGF2 u + toGF2 v := by
  ext i
  simp only [Polynomial.coeff_add, coeff_toGF2, Nat.testBit_xor]
  cases u.testBit i <;> cases v.testBit i <;> decide

theorem toGF2_shiftLeft (v k : Nat) : toGF2 (v <<< k) = toGF2 v * Polynomial.X ^ k := by
  ext i
  rw [Polynomial.coeff_mul_X_pow', coeff_toGF2, coeff_toGF2, Nat.testBit_shiftLeft]
  by_cases hk : k ≤ i <;> simp [hk]

theorem toGF2_two_pow (k : Nat) : toGF2 (2 ^ k) = Polynomial.X ^ k := by
  ext i
  simp [coeff_toGF2, Nat.testBit_two_pow, Polynomial.coeff_X_pow, eq_comm]

@[simp] theorem toGF2_one : toGF2 1 = 1 := toGF2_two_pow 0

theorem toGF2_clmulUpTo (a b n : Nat) : toGF2 (clmulUpTo a b n) =
    toGF2 a * ∑ i ∈ Finset.range n, if b.testBit i then Polynomial.X ^ i else 0 := by
  induction n with
  | zero => simp [clmulUpTo]
  | succ n ih =>
    rw [clmulUpTo, toGF2_xor, ih, Finset.sum_range_succ, mul_add]
    cases b.testBit n <;> simp [toGF2_shiftLeft]

theorem toGF2_clmul (a b : Nat) : toGF2 (clmul a b) = toGF2 a * toGF2 b := toGF2_clmulUpTo a b (bitlen b)

/-! The reduction polynomial (00_scope.md R2, R18) -/

/-- The reduction polynomial, not unfolded by unification, which otherwise tries to evaluate the power X^128. -/
@[irreducible] noncomputable def fieldModulus : Polynomial (ZMod 2) := modulusGF2

theorem fieldModulus_eq : fieldModulus = modulusGF2 := by
  unfold fieldModulus
  rfl

theorem toGF2_reductionPoly : toGF2 reductionPoly = fieldModulus := by
  have hbits : reductionPoly = 2 ^ 128 ^^^ 2 ^ 7 ^^^ 2 ^ 2 ^^^ 2 ^ 1 ^^^ 2 ^ 0 := by decide
  rw [hbits, fieldModulus_eq]
  unfold modulusGF2
  simp only [toGF2_xor, toGF2_two_pow, -Nat.reducePow]
  rw [pow_one, pow_zero]

theorem monic_fieldModulus : fieldModulus.Monic := by
  rw [fieldModulus_eq]
  unfold modulusGF2
  monicity!

theorem degree_fieldModulus : fieldModulus.degree = (128 : Nat) := by
  rw [fieldModulus_eq]
  unfold modulusGF2
  compute_degree!

/-- A residue class has one member of fewer than 128 bits. -/
theorem eq_of_lt_of_fieldModulus_dvd {u v : Nat} (hu : u < 2 ^ 128) (hv : v < 2 ^ 128)
    (h : fieldModulus ∣ toGF2 u - toGF2 v) : u = v := by
  have hdegree : (toGF2 u - toGF2 v).degree < fieldModulus.degree := by
    rw [degree_fieldModulus]
    exact (Polynomial.degree_sub_le _ _).trans_lt (max_lt (degree_toGF2_lt hu) (degree_toGF2_lt hv))
  exact toGF2_injective (sub_eq_zero.1 (Polynomial.eq_zero_of_dvd_of_degree_lt h hdegree))

/-! reduce (R111) -/

theorem testBit_top {v : Nat} (h : 0 < bitlen v) : v.testBit (bitlen v - 1) = true := by
  have hlow : ¬ bitlen v ≤ bitlen v - 1 := by omega
  have hhigh : bitlen v ≤ bitlen v - 1 + 1 := by omega
  rw [bitlen_le_iff] at hlow hhigh
  exact Nat.testBit_of_two_pow_le_and_two_pow_add_one_gt (not_lt.1 hlow) hhigh

/-- The top bits of two numbers of the same length cancel. -/
theorem bitlen_xor_lt {u v : Nat} (h : bitlen u = bitlen v) (hv : 0 < bitlen v) : bitlen (u ^^^ v) < bitlen v := by
  have hbits : ∀ i ≥ bitlen v - 1, (u ^^^ v).testBit i = false := by
    intro i hi
    rw [Nat.testBit_xor]
    rcases hi.eq_or_lt with rfl | hi
    · rw [testBit_top hv, ← h, testBit_top (h ▸ hv), Bool.xor_self]
    · rw [testBit_eq_false_of_bitlen_le (v := u) (by omega), testBit_eq_false_of_bitlen_le (v := v) (by omega),
        Bool.xor_self]
  have hlen : bitlen (u ^^^ v) ≤ bitlen v - 1 := bitlen_le_iff.2 (Nat.lt_pow_two_of_testBit _ hbits)
  omega

theorem bitlen_reductionPoly_shiftLeft (k : Nat) : bitlen (reductionPoly <<< k) = 129 + k := by
  have hlow : 2 ^ 128 ≤ reductionPoly := by decide
  have hhigh : reductionPoly < 2 ^ 129 := by decide
  have hle : bitlen (reductionPoly <<< k) ≤ 129 + k := by
    rw [bitlen_le_iff, Nat.shiftLeft_eq, pow_add]
    exact Nat.mul_lt_mul_of_pos_right hhigh (Nat.two_pow_pos k)
  have hgt : ¬ bitlen (reductionPoly <<< k) ≤ 128 + k := by
    rw [bitlen_le_iff, Nat.shiftLeft_eq, pow_add, not_lt]
    exact Nat.mul_le_mul_right _ hlow
  omega

/-- One pass of reduce shortens the number. -/
theorem bitlen_reducePass_lt {v : Nat} (h : bitlen v > 128) :
    bitlen (v ^^^ (reductionPoly <<< (bitlen v - 129))) < bitlen v := by
  have hlen := bitlen_reductionPoly_shiftLeft (bitlen v - 129)
  rw [Nat.xor_comm]
  exact bitlen_xor_lt (by omega) (by omega)

theorem reduceLoop_lt {fuel v : Nat} (h : bitlen v ≤ 128 + fuel) : reduceLoop fuel v < 2 ^ 128 := by
  induction fuel generalizing v with
  | zero => exact bitlen_le_iff.1 h
  | succ fuel ih =>
    rw [reduceLoop]
    split
    case isTrue hlong =>
      have hpass := bitlen_reducePass_lt hlong
      exact ih (by omega)
    case isFalse hshort => exact bitlen_le_iff.1 (not_lt.1 hshort)

/-- One pass of reduce keeps the residue class. -/
theorem fieldModulus_dvd_reducePass_sub (v k : Nat) :
    fieldModulus ∣ toGF2 (v ^^^ (reductionPoly <<< k)) - toGF2 v := by
  rw [toGF2_xor, toGF2_shiftLeft, toGF2_reductionPoly, add_sub_cancel_left]
  exact dvd_mul_right _ _

theorem fieldModulus_dvd_reduceLoop_sub (fuel v : Nat) : fieldModulus ∣ toGF2 (reduceLoop fuel v) - toGF2 v := by
  induction fuel generalizing v with
  | zero => simp [reduceLoop]
  | succ fuel ih =>
    rw [reduceLoop]
    split
    case isTrue =>
      have hpass := fieldModulus_dvd_reducePass_sub v (bitlen v - 129)
      have hrest := ih (v ^^^ (reductionPoly <<< (bitlen v - 129)))
      have h := dvd_add hrest hpass
      rwa [sub_add_sub_cancel] at h
    case isFalse => simp

theorem reduce_lt (v : Nat) : reduce v < 2 ^ 128 := reduceLoop_lt (by omega)

theorem fieldModulus_dvd_reduce_sub (v : Nat) : fieldModulus ∣ toGF2 (reduce v) - toGF2 v := by
  rw [reduce]
  exact fieldModulus_dvd_reduceLoop_sub _ v

theorem eq_reduce_iff (v w : Nat) : (w < 2 ^ 128 ∧ fieldModulus ∣ toGF2 w - toGF2 v) ↔ w = reduce v := by
  constructor
  · rintro ⟨hlt, hdvd⟩
    refine eq_of_lt_of_fieldModulus_dvd hlt (reduce_lt v) ?_
    have h := dvd_sub hdvd (fieldModulus_dvd_reduce_sub v)
    rwa [sub_sub_sub_cancel_right] at h
  · intro hw
    rw [hw]
    exact ⟨reduce_lt v, fieldModulus_dvd_reduce_sub v⟩

/-- Settles O11: a pass adds a multiple of the reduction polynomial and shortens the number, and a residue class has one
member of fewer than 128 bits; 127 passes and the model's own number of passes both end in it. -/
theorem reduceGivesTheUniqueResidue : Obligations.ReduceGivesTheUniqueResidue := by
  unfold Obligations.ReduceGivesTheUniqueResidue
  rw [← fieldModulus_eq]
  intro v hv
  have hlen : bitlen v ≤ 128 + 127 := bitlen_le_iff.2 hv
  exact ⟨(eq_reduce_iff v _).1 ⟨reduceLoop_lt hlen, fieldModulus_dvd_reduceLoop_sub 127 v⟩, eq_reduce_iff v⟩

/-! The field product (R112) -/

theorem toNat_gfmul (a b : Elem) : (gfmul a b).toNat = reduce (clmul a.toNat b.toNat) := by
  rw [gfmul, BitVec.toNat_ofNat, Nat.mod_eq_of_lt (reduce_lt _)]

/-- The class of an element in GF(2)[x] modulo the reduction polynomial. -/
noncomputable def residue (x : Elem) : AdjoinRoot fieldModulus := AdjoinRoot.mk fieldModulus (toGF2 x.toNat)

theorem residue_injective : Function.Injective residue := fun a b h =>
  BitVec.eq_of_toNat_eq (eq_of_lt_of_fieldModulus_dvd a.isLt b.isLt (AdjoinRoot.mk_eq_mk.1 h))

theorem residue_eq_mk_iff (x : Elem) (p : Polynomial (ZMod 2)) :
    residue x = AdjoinRoot.mk fieldModulus p ↔ toGF2 x.toNat = p %ₘ fieldModulus := by
  have hself : toGF2 x.toNat %ₘ fieldModulus = toGF2 x.toNat :=
    (Polynomial.modByMonic_eq_self_iff monic_fieldModulus).2 (degree_fieldModulus ▸ degree_toGF2_lt x.isLt)
  rw [residue, AdjoinRoot.mk_eq_mk, ← Polynomial.modByMonic_eq_zero_iff_dvd monic_fieldModulus,
    Polynomial.sub_modByMonic, hself, sub_eq_zero]

theorem residue_one : residue 1 = 1 := by
  have hone : (1 : Elem).toNat = 1 := rfl
  rw [residue, hone, toGF2_one, map_one]

@[simp] theorem residue_gfmul (a b : Elem) : residue (gfmul a b) = residue a * residue b := by
  simp only [residue, toNat_gfmul]
  rw [AdjoinRoot.mk_eq_mk.2 (fieldModulus_dvd_reduce_sub _), toGF2_clmul, map_mul]

theorem toGF2_gfmul (a b : Elem) :
    toGF2 (gfmul a b).toNat = (toGF2 a.toNat * toGF2 b.toNat) %ₘ modulusGF2 := by
  rw [← fieldModulus_eq, ← residue_eq_mk_iff, residue_gfmul, map_mul, residue, residue]

/-- Settles O12: reduce keeps the residue class of the carry-less product, which is the product of polynomials. -/
theorem fieldProductIsThePolynomialProduct : Obligations.FieldProductIsThePolynomialProduct := by
  unfold Obligations.FieldProductIsThePolynomialProduct
  exact fun a b => ⟨toNat_gfmul a b, toGF2_gfmul a b⟩

/-! The field power (R113) -/

/-- The accumulator and the base after the first n turns of square-and-multiply. -/
def gfpowTurns (a e : Elem) (n : Nat) : Elem × Elem := (List.range n).foldl (gfpowTurn e) (1, a)

theorem gfpow_eq_gfpowTurns (a e : Elem) : gfpow a e = (gfpowTurns a e 128).1 := rfl

theorem gfpowTurns_succ (a e : Elem) (n : Nat) :
    gfpowTurns a e (n + 1) = gfpowTurn e (gfpowTurns a e n) n := by
  rw [gfpowTurns, List.range_succ, List.foldl_concat, gfpowTurns]

theorem residue_gfpowTurns_base (a e : Elem) (n : Nat) :
    residue (gfpowTurns a e n).2 = residue a ^ 2 ^ n := by
  induction n with
  | zero => simp [gfpowTurns]
  | succ n ih => rw [gfpowTurns_succ, gfpowTurn, residue_gfmul, ih, ← pow_add, ← two_mul, pow_succ']

/-- After n turns the low n bits of the exponent are used up. -/
theorem residue_gfpowTurns_acc (a e : Elem) (n : Nat) :
    residue (gfpowTurns a e n).1 = residue a ^ (e.toNat % 2 ^ n) := by
  induction n with
  | zero =>
    rw [pow_zero, Nat.mod_one, pow_zero]
    exact residue_one
  | succ n ih =>
    have hbit : e.getLsbD n = decide (e.toNat / 2 ^ n % 2 = 1) := Nat.testBit_eq_decide_div_mod_eq
    rw [gfpowTurns_succ, gfpowTurn, hbit, Nat.mod_pow_succ]
    rcases Nat.mod_two_eq_zero_or_one (e.toNat / 2 ^ n) with h | h
    · simp [h, ih]
    · simp [h, ih, residue_gfpowTurns_base, pow_add]

@[simp] theorem residue_gfpow (a e : Elem) : residue (gfpow a e) = residue a ^ e.toNat := by
  rw [gfpow_eq_gfpowTurns, residue_gfpowTurns_acc, Nat.mod_eq_of_lt e.isLt]

theorem toGF2_gfpow (a e : Elem) : toGF2 (gfpow a e).toNat = (toGF2 a.toNat ^ e.toNat) %ₘ modulusGF2 := by
  rw [← fieldModulus_eq, ← residue_eq_mk_iff, residue_gfpow, map_pow, residue]

theorem gfpow_zero (a : Elem) : gfpow a 0 = 1 := by
  apply residue_injective
  rw [residue_gfpow, residue_one]
  exact pow_zero _

/-- Settles O13, by induction on the turns: the accumulator is the power by the exponent bits used so far. -/
theorem fieldPowerIsTheExactPower : Obligations.FieldPowerIsTheExactPower := by
  unfold Obligations.FieldPowerIsTheExactPower
  exact fun a e => ⟨toGF2_gfpow a e, gfpow_zero a⟩

end Sys2Proof.Machine
end

section
/-! The field commands (40_field.md R114 to R116, R119 to R125): what a register write, a store and a raised error leave
unchanged, said once for every command that ends in one; the range check of a block; and the five obligations settled by
them. -/

namespace Sys2Proof.Machine

variable {s : State}

/-! The frame of each way a command ends -/

theorem writesE_writeE (s : State) (a : EReg) (v : Elem) : WritesE (.next (s.writeE a v)) a v s := by
  refine ⟨s.writeE a v, rfl, s.readE_writeE_same a v, fun r hr => s.readE_writeE_other v hr, ?_⟩
  simp [SameP, SameFlags, SameResult, SameGhash, SameError, SameMem, SameBus]

theorem failsWith_raise (k : ErrKind) (i : Instr) (s : State) : FailsWith (raise k i s) k i s := by
  refine ⟨s.enterError k (encode i), rfl, ?_⟩
  simp [SameE, SameP, SameFlags, SameResult, SameGhash, SameMem, SameBus]

theorem stores_memWrite (s : State) (addr : Nat) (bytes : List Byte) :
    Stores (.next (s.memWrite addr bytes)) addr bytes s.result s := by
  refine ⟨s.memWrite addr bytes, rfl, fun x => s.dmemByte_memWrite addr x bytes, ?_⟩
  simp [SameE, SameP, SameFlags, SameGhash, SameError, SameBus]

/-! The commands without a check -/

/-- Settles O19: each is one register write, and a 14-bit immediate is a 128-bit number as it stands. -/
theorem faddFmovFliWriteTheirValue : Obligations.FaddFmovFliWriteTheirValue := by
  unfold Obligations.FaddFmovFliWriteTheirValue
  refine fun a b c imm s => ⟨writesE_writeE s a _, writesE_writeE s a _, fun himm => ?fli⟩
  case fli =>
    have hlt : imm < 2 ^ 14 := of_decide_eq_true himm
    refine ⟨BitVec.ofNat 128 imm, ?_, writesE_writeE s a _⟩
    rw [BitVec.toNat_ofNat, Nat.mod_eq_of_lt (by omega)]

/-- Settles O20: each is one register write, of the product and of the power that R112 and R113 define. -/
theorem fmulAndFpowWriteProductAndPower : Obligations.FmulAndFpowWriteProductAndPower := by
  unfold Obligations.FmulAndFpowWriteProductAndPower
  exact fun a b c s =>
    ⟨⟨_, writesE_writeE s a _, rfl, toGF2_gfmul _ _⟩, ⟨_, writesE_writeE s a _, rfl, toGF2_gfpow _ _⟩⟩

/-- Settles O22: both flags are decisions of the comparisons, and writing the flags touches nothing else. -/
theorem fcmpComparesIntegerForms : Obligations.FcmpComparesIntegerForms := by
  unfold Obligations.FcmpComparesIntegerForms
  refine fun b c s => ⟨s.setFlags (cmpFeq (s.readE b) (s.readE c)) (cmpFlt (s.readE b) (s.readE c)), rfl,
    decide_eq_true_iff, decide_eq_true_iff, ?_⟩
  simp [SameE, SameP, SameResult, SameGhash, SameError, SameMem, SameBus]

/-! The range check of a block (20_memory.md R69) -/

theorem blocksInRange_iff (s : State) (blk k : Nat) :
    s.blocksInRange blk k = true ↔ blk + k ≤ s.params.dmemBlocks := decide_eq_true_iff

theorem failsWith_of_outOfRange {blk k : Nat} (h : blk + k > s.params.dmemBlocks) (i : Instr)
    (o : Host.Outcome State Fault Refusal) :
    FailsWith (if s.blocksInRange blk k then o else raise .addressError i s) .addressError i s := by
  rw [if_neg (mt (blocksInRange_iff s blk k).1 (not_le.2 h))]
  exact failsWith_raise _ i s

theorem exec_fldb_of_inRange {blk : Nat} (h : s.blocksInRange blk 1 = true) (a : EReg) :
    exec (.fldb a blk) s = .next (s.writeE a (blockToElem (s.readBlock blk))) := if_pos h

theorem exec_fldi_of_inRange {blk : Nat} (h : s.blocksInRange blk 1 = true) (a : EReg) :
    exec (.fldi a blk) s = .next (s.writeE a (intToElem (s.readBlock blk))) := if_pos h

theorem exec_fstb_of_inRange {blk : Nat} (h : s.blocksInRange blk 1 = true) (a : EReg) :
    exec (.fstb a blk) s = .next (s.memWrite (blockAddr blk) (elemToBlock (s.readE a))) := if_pos h

theorem exec_fsti_of_inRange {blk : Nat} (h : s.blocksInRange blk 1 = true) (a : EReg) :
    exec (.fsti a blk) s = .next (s.memWrite (blockAddr blk) (elemToInt (s.readE a))) := if_pos h

/-! Loads and stores of a block (R122 to R125) -/

theorem readBlock_length (s : State) (blk : Nat) : (s.readBlock blk).length = 16 := s.memRead_length _ 16

theorem getD_readBlock (s : State) (blk : Nat) {k : Nat} (hk : k < 16) :
    (s.readBlock blk).getD k 0 = s.dmemByte (16 * blk + k) := by
  simp [State.readBlock, State.memRead, blockAddr, hk]

theorem getLsbD_intToElem {bytes : List Byte} (hlen : bytes.length = 16) {i : Nat} (hi : i < 128) :
    (intToElem bytes).getLsbD i = (bytes.getD (15 - i / 8) 0).getLsbD (i % 8) := by
  have hpos : 8 * (15 - (15 - i / 8)) + i % 8 = i := by omega
  have hbit := getLsbD_elemToInt (intToElem bytes) (k := 15 - i / 8) (j := i % 8) (by omega) (by omega)
  rw [elemToInt_intToElem hlen, hpos] at hbit
  exact hbit.symm

theorem getLsbD_blockToElem_readBlock (s : State) (blk : Nat) {i : Nat} (hi : i < 128) :
    (blockToElem (s.readBlock blk)).getLsbD i = (s.dmemByte (16 * blk + i / 8)).getLsbD (7 - i % 8) := by
  rw [getLsbD_blockToElem (readBlock_length s blk) hi, getD_readBlock s blk (by omega)]

theorem getLsbD_intToElem_readBlock (s : State) (blk : Nat) {i : Nat} (hi : i < 128) :
    (intToElem (s.readBlock blk)).getLsbD i = (s.dmemByte (16 * blk + (15 - i / 8))).getLsbD (i % 8) := by
  rw [getLsbD_intToElem (readBlock_length s blk) hi, getD_readBlock s blk (by omega)]

/-- Settles O23: past the range check a load is one register write, whose bits are those of the 16 bytes read. -/
theorem fldbAndFldiReadTheBlock : Obligations.FldbAndFldiReadTheBlock := by
  unfold Obligations.FldbAndFldiReadTheBlock
  intro a blk s
  split
  case isTrue hout => exact ⟨failsWith_of_outOfRange hout _ _, failsWith_of_outOfRange hout _ _⟩
  case isFalse hin =>
    have hrange := (blocksInRange_iff s blk 1).2 (not_lt.1 hin)
    rw [exec_fldb_of_inRange hrange, exec_fldi_of_inRange hrange]
    exact ⟨⟨_, writesE_writeE s a _, fun _ hi => getLsbD_blockToElem_readBlock s blk hi⟩,
      ⟨_, writesE_writeE s a _, fun _ hi => getLsbD_intToElem_readBlock s blk hi⟩⟩

/-- Settles O24: past the range check a store is one write of 16 bytes to DMEM. -/
theorem fstbAndFstiStoreTheBlock : Obligations.FstbAndFstiStoreTheBlock := by
  unfold Obligations.FstbAndFstiStoreTheBlock
  intro a blk s
  split
  case isTrue hout => exact ⟨failsWith_of_outOfRange hout _ _, failsWith_of_outOfRange hout _ _⟩
  case isFalse hin =>
    have hrange := (blocksInRange_iff s blk 1).2 (not_lt.1 hin)
    rw [exec_fstb_of_inRange hrange, exec_fsti_of_inRange hrange]
    exact ⟨stores_memWrite s _ _, stores_memWrite s _ _, rfl⟩

end Sys2Proof.Machine
end

section
/-! Coefficient lists (00_scope.md R14, 41_polynomial.md R141, R142, R154): the coefficients of a stripped list, and of
what addition, multiplication and setting one coefficient make. -/

namespace Sys2Proof.Machine

open Sys2Proof.Claims

/-! Coefficients (41_polynomial.md R141) -/

theorem coeff_eq_getElem_or_zero (p : Poly) (i : Nat) : coeff p i = if h : i < p.length then p[i] else 0 := by
  rw [coeff, List.getD_eq_getElem?_getD]
  split
  case isTrue h => simp [h]
  case isFalse h => simp [not_lt.1 h]

theorem coeff_of_length_le {p : Poly} {i : Nat} (h : p.length ≤ i) : coeff p i = 0 :=
  List.getD_eq_default p 0 h

theorem coeff_map_range (f : Nat → Elem) (n j : Nat) :
    coeff ((List.range n).map f) j = if j < n then f j else 0 := by
  rw [coeff_eq_getElem_or_zero]
  simp

theorem coeff_append_replicate_zero (l : List Elem) (n j : Nat) :
    coeff (l ++ List.replicate n 0) j = coeff l j := by
  by_cases hj : j < l.length
  · exact List.getD_append l _ 0 j hj
  · have hl : l.length ≤ j := not_lt.1 hj
    rw [coeff_of_length_le hl, coeff, List.getD_append_right l _ 0 j hl, List.getD_eq_getElem?_getD,
      List.getElem?_replicate]
    split <;> rfl

theorem coeff_set {l : List Elem} {i : Nat} (hi : i < l.length) (v : Elem) (j : Nat) :
    coeff (l.set i v) j = if j = i then v else coeff l j := by
  rw [coeff, List.getD_eq_getElem?_getD]
  split
  case isTrue h => simp [h, hi]
  case isFalse h => rw [List.getElem?_set_ne (Ne.symm h), ← List.getD_eq_getElem?_getD, coeff]

/-! Stripping keeps every coefficient (00_scope.md R14) -/

theorem strip_concat_zero (l : List Elem) : strip (l ++ [0]) = strip l := by simp [strip]

theorem strip_concat_of_ne_zero (l : List Elem) {c : Elem} (hc : c ≠ 0) : strip (l ++ [c]) = l ++ [c] := by
  have hhead : (c == 0#128) = false := beq_false_of_ne hc
  simp [strip, hhead]

@[simp] theorem coeff_strip (l : List Elem) (j : Nat) : coeff (strip l) j = coeff l j := by
  induction l using List.reverseRecOn with
  | nil => cases j <;> rfl
  | append_singleton l c ih =>
    by_cases hc : c = 0
    · rw [hc, strip_concat_zero, ih]
      exact (coeff_append_replicate_zero l 1 j).symm
    · rw [strip_concat_of_ne_zero l hc]

@[simp] theorem strip_strip (l : List Elem) : strip (strip l) = strip l := strip_eq_self (canonical_strip l)

theorem isZero_iff (p : Poly) : isZero p = true ↔ p = [0] := decide_eq_true_iff

/-! Addition (R141) -/

theorem coeff_padd (p q : Poly) (j : Nat) : coeff (padd p q) j = coeff p j ^^^ coeff q j := by
  rw [padd, coeff_strip, coeff_map_range]
  split
  case isTrue => rfl
  case isFalse hj =>
    rw [coeff_of_length_le (p := p) (by omega), coeff_of_length_le (p := q) (by omega)]
    rfl

theorem padd_length_le (p q : Poly) : (padd p q).length ≤ max (max p.length q.length) 1 := by
  simpa [padd] using strip_length_le ((List.range (max p.length q.length)).map (fun i => coeff p i ^^^ coeff q i))

/-! Multiplication (R142) -/

theorem residue_zero : residue 0 = 0 := by
  have hzero : (0 : Elem).toNat = 0 := rfl
  rw [residue, hzero, toGF2_zero, map_zero]

@[simp] theorem gfmul_zero_left (x : Elem) : gfmul 0 x = 0 :=
  residue_injective (by rw [residue_gfmul, residue_zero, zero_mul])

@[simp] theorem gfmul_zero_right (x : Elem) : gfmul x 0 = 0 :=
  residue_injective (by rw [residue_gfmul, residue_zero, mul_zero])

@[simp] theorem xorAll_nil : xorAll [] = 0 := rfl

@[simp] theorem xorAll_cons (x : Elem) (l : List Elem) : xorAll (x :: l) = x ^^^ xorAll l := rfl

theorem foldl_xor_eq_xorAll (f : Nat → Elem) (l : List Nat) (acc : Elem) :
    l.foldl (fun acc i => acc ^^^ f i) acc = acc ^^^ xorAll (l.map f) := by
  induction l generalizing acc with
  | nil => simp
  | cons i l ih => rw [List.foldl_cons, ih, List.map_cons, xorAll_cons, BitVec.xor_assoc]

theorem xorAll_eq_zero {l : List Elem} (h : ∀ x ∈ l, x = 0) : xorAll l = 0 := by
  induction l with
  | nil => rfl
  | cons x l ih =>
    obtain ⟨hx, hl⟩ := List.forall_mem_cons.1 h
    rw [xorAll_cons, ih hl, hx]
    rfl

theorem convCoeff_eq_xorAll (p q : Poly) (k : Nat) :
    convCoeff p q k = xorAll ((List.range (k + 1)).map (fun i => gfmul (coeff p i) (coeff q (k - i)))) := by
  rw [convCoeff, foldl_xor_eq_xorAll]
  exact BitVec.zero_xor

/-- Past the length of the product one factor of every pair is past the length of its operand. -/
theorem convCoeff_eq_zero {p q : Poly} {k : Nat} (hk : p.length + q.length - 1 ≤ k) : convCoeff p q k = 0 := by
  rw [convCoeff_eq_xorAll]
  refine xorAll_eq_zero fun x hx => ?_
  obtain ⟨i, -, rfl⟩ := List.mem_map.1 hx
  rcases Nat.lt_or_ge i p.length with hi | hi
  · rw [coeff_of_length_le (p := q) (i := k - i) (by omega), gfmul_zero_right]
  · rw [coeff_of_length_le hi, gfmul_zero_left]

theorem coeff_pmul (p q : Poly) (k : Nat) : coeff (pmul p q) k = convCoeff p q k := by
  rw [pmul, coeff_strip, coeff_map_range]
  split
  case isTrue => rfl
  case isFalse hk => exact (convCoeff_eq_zero (not_lt.1 hk)).symm

theorem productTooLong_iff (p q : Poly) (n : Nat) :
    productTooLong p q n = true ↔ p ≠ [0] ∧ q ≠ [0] ∧ p.length + q.length - 1 > n := by
  simp [productTooLong, isZero, and_assoc]

/-! Setting one coefficient (R154) -/

theorem coeff_setCoeff (p : Poly) (i : Nat) (v : Elem) (j : Nat) :
    coeff (setCoeff p i v) j = if j = i then v else coeff p j := by
  have hi : i < (p ++ List.replicate (i + 1 - p.length) 0).length := by
    rw [List.length_append, List.length_replicate]
    omega
  rw [setCoeff, coeff_set hi, coeff_append_replicate_zero]

end Sys2Proof.Machine
end

section
/-! The interchange format of a polynomial (20_memory.md R78): how long it is, what stands in its blocks once it is
stored, and that reading them back gives the polynomial. -/

namespace Sys2Proof.Machine

/-! The zero polynomial and the others -/

theorem interchangeLen_of_zero {p : Poly} (h : p = [0]) : interchangeLen p = 0 := if_pos ((isZero_iff p).2 h)

theorem interchangeLen_of_ne_zero {p : Poly} (h : p ≠ [0]) : interchangeLen p = p.length :=
  if_neg (mt (isZero_iff p).1 h)

theorem interchangeBytes_of_zero {p : Poly} (h : p = [0]) : interchangeBytes p = [] := if_pos ((isZero_iff p).2 h)

theorem interchangeBytes_of_ne_zero {p : Poly} (h : p ≠ [0]) : interchangeBytes p = p.flatMap elemToBlock :=
  if_neg (mt (isZero_iff p).1 h)

/-! Blocks of coefficients in DMEM -/

theorem coeff_readCoeffs (s : State) (blk n j : Nat) :
    coeff (s.readCoeffs blk n) j = if j < n then blockToElem (s.readBlock (blk + j)) else 0 :=
  coeff_map_range _ n j

theorem length_flatMap_elemToBlock (p : Poly) : (p.flatMap elemToBlock).length = 16 * p.length := by
  simp [List.length_flatMap, Nat.mul_comm]

theorem take_drop_flatMap_elemToBlock {p : Poly} {j : Nat} (hj : j < p.length) :
    ((p.flatMap elemToBlock).drop (16 * j)).take 16 = elemToBlock p[j] := by
  induction p generalizing j with
  | nil => exact absurd hj (Nat.not_lt_zero j)
  | cons c p ih =>
    cases j with
    | zero => exact List.take_left' (elemToBlock_length c)
    | succ j =>
      have hdrop : (elemToBlock c ++ p.flatMap elemToBlock).drop (16 * (j + 1)) =
          (p.flatMap elemToBlock).drop (16 * j) := by
        rw [Nat.mul_succ, Nat.add_comm, ← List.drop_drop, List.drop_left' (elemToBlock_length c)]
      rw [List.flatMap_cons, hdrop]
      exact ih (Nat.lt_of_succ_lt_succ hj)

/-- A read inside a write returns the bytes written there. -/
theorem memRead_memWrite_inside (s : State) (x : Nat) {bytes : List Byte} {k n : Nat} (h : k + n ≤ bytes.length) :
    (s.memWrite x bytes).memRead (x + k) n = (bytes.drop k).take n := by
  apply List.ext_getElem
  · rw [State.memRead_length, List.length_take, List.length_drop]
    omega
  · intro i hi _
    rw [State.memRead_length] at hi
    have hin : x ≤ x + k + i ∧ x + k + i < x + bytes.length := by omega
    have hpos : x + k + i - x = k + i := by omega
    simp only [State.memRead, List.getElem_map, List.getElem_range, State.dmemByte_memWrite, if_pos hin, hpos,
      List.getElem_take, List.getElem_drop]
    exact List.getD_eq_getElem _ _ _

theorem readBlock_memWrite_coeffs (s : State) (blk : Nat) {p : Poly} {j : Nat} (hj : j < p.length) :
    (s.memWrite (blockAddr blk) (p.flatMap elemToBlock)).readBlock (blk + j) = elemToBlock p[j] := by
  have hin : 16 * j + 16 ≤ (p.flatMap elemToBlock).length := by
    rw [length_flatMap_elemToBlock]
    omega
  have haddr : blockAddr (blk + j) = blockAddr blk + 16 * j := Nat.mul_add 16 blk j
  rw [State.readBlock, haddr, memRead_memWrite_inside s _ hin, take_drop_flatMap_elemToBlock hj]

theorem readCoeffs_memWrite_coeffs (s : State) (blk : Nat) (p : Poly) :
    (s.memWrite (blockAddr blk) (p.flatMap elemToBlock)).readCoeffs blk p.length = p := by
  apply List.ext_getElem
  · simp [State.readCoeffs]
  · intro j _ hj
    simp only [State.readCoeffs, List.getElem_map, List.getElem_range, readBlock_memWrite_coeffs s blk hj,
      blockToElem_elemToBlock]

/-! Storing a polynomial -/

/-- The state with the interchange format of a polynomial stored from a block on, and its blocks counted in RESULT:
what PST leaves (`exec_pst_of_inRange`). -/
def State.storePoly (s : State) (blk : Nat) (p : Poly) : State :=
  (s.memWrite (blockAddr blk) (interchangeBytes p)).setResult (interchangeLen p)

@[simp] theorem State.storePoly_result (s : State) (blk : Nat) (p : Poly) :
    (s.storePoly blk p).result = BitVec.ofNat 32 (interchangeLen p) := rfl

@[simp] theorem State.storePoly_params (s : State) (blk : Nat) (p : Poly) :
    (s.storePoly blk p).params = s.params := rfl

theorem State.storePoly_readCoeffs (s : State) (blk : Nat) (p : Poly) (x n : Nat) :
    (s.storePoly blk p).readCoeffs x n = (s.memWrite (blockAddr blk) (interchangeBytes p)).readCoeffs x n := rfl

/-- The interchange format read back and stripped is the polynomial (R78). -/
theorem strip_readCoeffs_storePoly (s : State) (blk : Nat) {p : Poly} (hp : canonical p = true) :
    strip ((s.storePoly blk p).readCoeffs blk (interchangeLen p)) = p := by
  rw [State.storePoly_readCoeffs]
  by_cases hzero : p = [0]
  · rw [interchangeLen_of_zero hzero, hzero]
    rfl
  · rw [interchangeLen_of_ne_zero hzero, interchangeBytes_of_ne_zero hzero, readCoeffs_memWrite_coeffs,
      strip_eq_self hp]

end Sys2Proof.Machine
end

section
/-! The polynomial commands but division (41_polynomial.md R146, R147, R152 to R157, R159): what a polynomial register
write and the store of a polynomial leave unchanged, each command past its checks, and the eight obligations settled by
them. -/

namespace Sys2Proof.Machine

variable {s : State}

/-! The frame of each way a polynomial command ends -/

theorem writesP_writeP (s : State) (a : PReg) {q : List Elem} {holds : Poly → Prop} (h : holds (strip q)) :
    WritesP (.next (s.writeP a q)) a holds s := by
  refine ⟨s.writeP a q, rfl, by rwa [State.readP_writeP_same], fun r hr => s.readP_writeP_other q hr, ?_⟩
  simp [SameE, SameFlags, SameResult, SameGhash, SameError, SameMem, SameBus]

theorem stores_storePoly (s : State) (blk : Nat) (p : Poly) :
    Stores (.next (s.storePoly blk p)) (blockAddr blk) (interchangeBytes p) (BitVec.ofNat 32 (interchangeLen p)) s := by
  refine ⟨s.storePoly blk p, rfl, fun x => s.dmemByte_memWrite (blockAddr blk) x _, rfl, ?_⟩
  simp [State.storePoly, SameE, SameP, SameFlags, SameGhash, SameError, SameBus]

/-! The commands that check their operands -/

theorem exec_pmul_of_tooLong {a b c : PReg} (h : productTooLong (s.readP b) (s.readP c) s.params.pmaxlen = true) :
    exec (.pmul a b c) s = raise .capacityExceeded (.pmul a b c) s := if_pos h

theorem exec_pmul_of_fits {a b c : PReg} (h : ¬ productTooLong (s.readP b) (s.readP c) s.params.pmaxlen = true) :
    exec (.pmul a b c) s = .next (s.writeP a (pmul (s.readP b) (s.readP c))) := if_neg h

theorem exec_psetc_of_tooLong {imm : Nat} (h : imm ≥ s.params.pmaxlen) (a : PReg) (b : EReg) :
    exec (.psetc a b imm) s = raise .capacityExceeded (.psetc a b imm) s := if_pos h

theorem exec_psetc_of_fits {imm : Nat} (h : ¬ imm ≥ s.params.pmaxlen) (a : PReg) (b : EReg) :
    exec (.psetc a b imm) s = .next (s.writeP a (setCoeff (s.readP a) imm (s.readE b))) := if_neg h

theorem exec_pld_of_inRange {n blk : Nat} (h : s.blocksInRange blk n = true) (a : PReg) :
    exec (.pld a n blk) s = if n > s.params.pmaxlen then raise .capacityExceeded (.pld a n blk) s
      else .next (s.writeP a (s.readCoeffs blk n)) := if_pos h

theorem exec_pst_of_inRange {a : PReg} {blk : Nat} (h : s.blocksInRange blk (interchangeLen (s.readP a)) = true) :
    exec (.pst a blk) s = .next (s.storePoly blk (s.readP a)) := if_pos h

/-- PST either way, by the range check on the blocks of the interchange format. -/
theorem pst_stores_or_fails (a : PReg) (blk : Nat) (s : State) :
    if blk + interchangeLen (s.readP a) > s.params.dmemBlocks then
      FailsWith (exec (.pst a blk) s) .addressError (.pst a blk) s
    else
      Stores (exec (.pst a blk) s) (blockAddr blk) (interchangeBytes (s.readP a))
        (BitVec.ofNat 32 (interchangeLen (s.readP a))) s := by
  split
  case isTrue hout => exact failsWith_of_outOfRange hout _ _
  case isFalse hin =>
    rw [exec_pst_of_inRange ((blocksInRange_iff s blk _).2 (not_lt.1 hin))]
    exact stores_storePoly s blk _

/-! The obligations -/

/-- Settles O25: PADD is one register write of a list stripped already, which keeps every coefficient. -/
theorem paddAddsCoefficients : Obligations.PaddAddsCoefficients := by
  unfold Obligations.PaddAddsCoefficients
  intro a b c s
  have hstrip : strip (padd (s.readP b) (s.readP c)) = padd (s.readP b) (s.readP c) := strip_strip _
  refine writesP_writeP s a ?_
  rw [hstrip]
  exact ⟨canonical_strip _, coeff_padd _ _, padd_length_le _ _⟩

/-- Settles O26: past the capacity check PMUL is one register write, and no pair of coefficients reaches past the
length it keeps. -/
theorem pmulConvolvesOrRaises : Obligations.PmulConvolvesOrRaises := by
  unfold Obligations.PmulConvolvesOrRaises
  intro a b c s
  split
  case isTrue hlong =>
    rw [exec_pmul_of_tooLong ((productTooLong_iff _ _ _).2 hlong)]
    exact failsWith_raise _ _ s
  case isFalse hfits =>
    rw [exec_pmul_of_fits (mt (productTooLong_iff _ _ _).1 hfits)]
    refine writesP_writeP s a ⟨canonical_strip _, fun k => ?_⟩
    rw [coeff_strip, coeff_pmul, convCoeff_eq_xorAll]

/-- Settles O31: PSETC pads with zeros, which changes no coefficient, and sets one; PGETC is one register write. -/
theorem psetcAndPgetcAccessOneCoefficient : Obligations.PsetcAndPgetcAccessOneCoefficient := by
  unfold Obligations.PsetcAndPgetcAccessOneCoefficient
  refine fun a b imm s => ⟨?psetc, ?pgetc⟩
  case psetc =>
    split
    case isTrue hlong =>
      rw [exec_psetc_of_tooLong hlong]
      exact failsWith_raise _ _ s
    case isFalse hfits =>
      rw [exec_psetc_of_fits hfits]
      refine writesP_writeP s a ⟨canonical_strip _, fun j => ?_⟩
      rw [coeff_strip, coeff_setCoeff]
  case pgetc =>
    rw [← coeff_eq_getElem_or_zero]
    exact writesE_writeE s a _

/-- Settles O32: the range check stands before the capacity check, and past both PLD is one register write of the
elements in the blocks. -/
theorem pldLoadsTheInterchangeFormat : Obligations.PldLoadsTheInterchangeFormat := by
  unfold Obligations.PldLoadsTheInterchangeFormat
  intro a n blk s
  split
  case isTrue hout => exact failsWith_of_outOfRange hout _ _
  case isFalse hin =>
    rw [exec_pld_of_inRange ((blocksInRange_iff s blk n).2 (not_lt.1 hin))]
    split
    case isTrue => exact failsWith_raise _ _ s
    case isFalse =>
      refine writesP_writeP s a ⟨canonical_strip _, fun j => ?_⟩
      rw [coeff_strip, coeff_readCoeffs, State.readBlock, blockAddr]

/-- Settles O33: PST stores the interchange format, which is empty for the zero polynomial and has one block for each
coefficient of any other. -/
theorem pstStoresTheInterchangeFormat : Obligations.PstStoresTheInterchangeFormat := by
  unfold Obligations.PstStoresTheInterchangeFormat
  intro a blk s
  have hpst := pst_stores_or_fails a blk s
  split
  case isTrue hzero => rwa [interchangeLen_of_zero hzero, interchangeBytes_of_zero hzero] at hpst
  case isFalse hzero => rwa [interchangeLen_of_ne_zero hzero, interchangeBytes_of_ne_zero hzero] at hpst

/-- Settles O29: stripping a canonical list changes nothing. -/
theorem pmovCopiesThePolynomial : Obligations.PmovCopiesThePolynomial := by
  unfold Obligations.PmovCopiesThePolynomial
  exact fun a b s hb => writesP_writeP s a (strip_eq_self hb)

/-- Settles O30: FEQ is the decision that the polynomial is zero, and writing RESULT and the flags touches nothing
else. -/
theorem pdegReportsTheDegree : Obligations.PdegReportsTheDegree := by
  unfold Obligations.PdegReportsTheDegree
  refine fun b s => ⟨_, rfl, rfl, isZero_iff _, rfl, ?_⟩
  simp [SameE, SameP, SameGhash, SameError, SameMem, SameBus]

/-- Settles O56: the count fits RESULT, so PLD reads as many blocks as PST wrote, and they hold the interchange format
of the polynomial. -/
theorem pstThenPldReturnsThePolynomial : Obligations.PstThenPldReturnsThePolynomial := by
  unfold Obligations.PstThenPldReturnsThePolynomial
  intro s a b blk hcanonical hlen hpmaxlen hfits
  obtain ⟨hcapacity, hblocks⟩ : interchangeLen (s.readP a) ≤ s.params.pmaxlen ∧
      blk + interchangeLen (s.readP a) ≤ s.params.dmemBlocks := by
    split at hfits
    case isTrue hzero => simpa [interchangeLen_of_zero hzero] using hfits
    case isFalse hzero => simpa [interchangeLen_of_ne_zero hzero] using ⟨hlen, hfits⟩
  have hrange := (blocksInRange_iff s blk _).2 hblocks
  have hcount : (s.storePoly blk (s.readP a)).result.toNat = interchangeLen (s.readP a) := by
    rw [State.storePoly_result, BitVec.toNat_ofNat, Nat.mod_eq_of_lt (by omega)]
  have hload := (exec_pld_of_inRange (s := s.storePoly blk (s.readP a)) hrange b).trans (if_neg (not_lt.2 hcapacity))
  refine ⟨_, _, exec_pst_of_inRange hrange, hcount.symm ▸ hload, ?same, fun hzero => ?zeroCount⟩
  case same => rw [State.readP_writeP_same, hcount, strip_readCoeffs_storePoly s blk hcanonical]
  case zeroCount =>
    rw [State.storePoly_result, interchangeLen_of_zero hzero]
    rfl

end Sys2Proof.Machine
end

section
/-! Issuing the words of commands (30_encoding.md R82 to R89, 60_exceptions.md R205): the operand fields of a format R
and of a format M word, the GHASH commands as their words decode, and what a sequence of words does when one of them
may raise. -/

namespace Sys2Proof.Machine

open Sys2Proof.Laws

/-! The operand fields of a word (R82 to R84) -/

theorem extractLsb'_wordR_a (op : BitVec 6) (a b c : Fin 16) :
    (wordR op a b c).extractLsb' 22 4 = BitVec.ofNat 4 a.val := by
  apply BitVec.eq_of_getLsbD_eq
  intro i hi
  unfold wordR place
  interval_cases i <;> simp

theorem extractLsb'_wordR_b (op : BitVec 6) (a b c : Fin 16) :
    (wordR op a b c).extractLsb' 18 4 = BitVec.ofNat 4 b.val := by
  apply BitVec.eq_of_getLsbD_eq
  intro i hi
  unfold wordR place
  interval_cases i <;> simp

theorem extractLsb'_wordR_c (op : BitVec 6) (a b c : Fin 16) :
    (wordR op a b c).extractLsb' 14 4 = BitVec.ofNat 4 c.val := by
  apply BitVec.eq_of_getLsbD_eq
  intro i hi
  unfold wordR place
  interval_cases i <;> simp

theorem extractLsb'_wordM_n (op : BitVec 6) (a : Fin 16) (n blk : Nat) :
    (wordM op a n blk).extractLsb' 14 8 = BitVec.ofNat 8 n := by
  apply BitVec.eq_of_getLsbD_eq
  intro i hi
  unfold wordM place
  interval_cases i <;> simp

theorem extractLsb'_wordM_blk (op : BitVec 6) (a : Fin 16) (n blk : Nat) :
    (wordM op a n blk).extractLsb' 0 14 = BitVec.ofNat 14 blk := by
  apply BitVec.eq_of_getLsbD_eq
  intro i hi
  unfold wordM place
  interval_cases i <;> simp

/-- A register number fits its four bits. -/
theorem toFin_ofNat_val (r : Fin 16) : (BitVec.ofNat 4 r.val).toFin = r := by
  apply Fin.ext
  rw [BitVec.val_toFin, BitVec.toNat_ofNat]
  exact Nat.mod_eq_of_lt r.isLt

theorem fieldsOf_wordR_a (op : BitVec 6) (a b c : Fin 16) : (fieldsOf (wordR op a b c)).a = a := by
  rw [fieldsOf, extractLsb'_wordR_a, toFin_ofNat_val]

theorem fieldsOf_wordR_b (op : BitVec 6) (a b c : Fin 16) : (fieldsOf (wordR op a b c)).b = b := by
  rw [fieldsOf, extractLsb'_wordR_b, toFin_ofNat_val]

theorem fieldsOf_wordR_c (op : BitVec 6) (a b c : Fin 16) : (fieldsOf (wordR op a b c)).c = c := by
  rw [fieldsOf, extractLsb'_wordR_c, toFin_ofNat_val]

theorem fieldsOf_wordM_n (op : BitVec 6) (a : Fin 16) {n : Nat} (blk : Nat) (hn : n < 2 ^ 8) :
    (fieldsOf (wordM op a n blk)).n = n := by
  rw [fieldsOf, extractLsb'_wordM_n, BitVec.toNat_ofNat, Nat.mod_eq_of_lt hn]

theorem fieldsOf_wordM_blk (op : BitVec 6) (a : Fin 16) (n : Nat) {blk : Nat} (hblk : blk < 2 ^ 14) :
    (fieldsOf (wordM op a n blk)).blk = blk := by
  rw [fieldsOf, extractLsb'_wordM_blk, BitVec.toNat_ofNat, Nat.mod_eq_of_lt hblk]

/-! Decoding the word of a command (R89) -/

/-- The word of a command decodes to it once the fields of the word rebuild it. -/
theorem decode_encode_of_build {i : Instr} {r : OpRow} (hi : EncodesItsRow.Statement i)
    (hrow : opRowOf (opcodeOf (encode i)) = some r) (hbuild : r.build (fieldsOf (encode i)) = i) :
    decode (encode i) = .ok i := by
  obtain ⟨r', hr', hfixed⟩ := hi
  obtain rfl : r' = r := Option.some.inj (hr'.symm.trans hrow)
  simp [decode, hrow, hfixed, hbuild]

theorem decode_encode_ginit (b c : EReg) : decode (encode (.ginit b c)) = .ok (.ginit b c) :=
  decode_encode_of_build (EncodesItsRow.ginit b c) ((congrArg opRowOf (opcodeOf_wordR 0x30 _ _ _)).trans rfl)
    (congrArg₂ Instr.ginit (fieldsOf_wordR_b 0x30 0 b c) (fieldsOf_wordR_c 0x30 0 b c))

theorem decode_encode_gad {n blk : Nat} (hn : n < 2 ^ 8) (hblk : blk < 2 ^ 14) :
    decode (encode (.gad n blk)) = .ok (.gad n blk) :=
  decode_encode_of_build (EncodesItsRow.gad n blk) ((congrArg opRowOf (opcodeOf_wordM 0x31 _ _ _)).trans rfl)
    (congrArg₂ Instr.gad (fieldsOf_wordM_n 0x31 0 blk hn) (fieldsOf_wordM_blk 0x31 0 n hblk))

theorem decode_encode_gct {n blk : Nat} (hn : n < 2 ^ 8) (hblk : blk < 2 ^ 14) :
    decode (encode (.gct n blk)) = .ok (.gct n blk) :=
  decode_encode_of_build (EncodesItsRow.gct n blk) ((congrArg opRowOf (opcodeOf_wordM 0x32 _ _ _)).trans rfl)
    (congrArg₂ Instr.gct (fieldsOf_wordM_n 0x32 0 blk hn) (fieldsOf_wordM_blk 0x32 0 n hblk))

theorem decode_encode_gfin : decode (encode .gfin) = .ok .gfin := by decide

theorem decode_encode_gtag (a : EReg) : decode (encode (.gtag a)) = .ok (.gtag a) :=
  decode_encode_of_build (EncodesItsRow.gtag a) ((congrArg opRowOf (opcodeOf_wordR 0x34 _ _ _)).trans rfl)
    (congrArg Instr.gtag (fieldsOf_wordR_a 0x34 a 0 0))

/-! Issuing the word of a command (60_exceptions.md R205) -/

theorem decode_clrerrWord : decode clrerrWord = .ok .clrerr := by decide

theorem encode_ne_clrerrWord {i : Instr} (hdecode : decode (encode i) = .ok i) (hi : i ≠ .clrerr) :
    encode i ≠ clrerrWord := by
  intro hword
  rw [hword, decode_clrerrWord] at hdecode
  exact hi (Except.ok.inj hdecode).symm

theorem issue_encode {i : Instr} {s : State} (hdecode : decode (encode i) = .ok i) (herr : s.err = false) :
    issue (encode i) s = exec i s := issue_legal (gateDiscards_of_err_false herr _) hdecode

theorem gateDiscards_of_err {s : State} {w : CmdWord} (herr : s.err = true) (hw : w ≠ clrerrWord) :
    s.gateDiscards w = true := by simp [State.gateDiscards, herr, hw]

/-! Sequences of words -/

theorem issueAll_cons_of_next {w : CmdWord} {s t : State} (h : issue w s = .next t) (ws : List CmdWord) :
    issueAll (w :: ws) s = issueAll ws t := by simp [issueAll, h]

theorem issueAll_append_of_next {ws : List CmdWord} {s t : State} (h : issueAll ws s = .next t)
    (vs : List CmdWord) : issueAll (ws ++ vs) s = issueAll vs t := by
  induction ws generalizing s with
  | nil => cases h; rfl
  | cons w ws ih =>
    cases hw : issue w s with
    | next u =>
      rw [issueAll_cons_of_next hw] at h
      rw [List.cons_append, issueAll_cons_of_next hw, ih h]
    | fault r => simp [issueAll, hw] at h
    | refused r => simp [issueAll, hw] at h

/-- While an error is pending a sequence without CLRERR has no effect. -/
theorem issueAll_of_err {ws : List CmdWord} {s : State} (herr : s.err = true) (hws : ∀ w ∈ ws, w ≠ clrerrWord) :
    issueAll ws s = .next s := by
  induction ws with
  | nil => rfl
  | cons w ws ih =>
    obtain ⟨hw, hws⟩ := List.forall_mem_cons.1 hws
    rw [issueAll_cons_of_next (issue_discarded (gateDiscards_of_err herr hw)), ih hws]

/-- Issuing the words leaves the state u where P holds, and leaves an error pending where it does not. -/
def RunsTo (ws : List CmdWord) (s : State) (P : Prop) (u : State) : Prop :=
  ∃ t, issueAll ws s = .next t ∧ (P → t = u) ∧ (¬ P → t.err = true)

theorem runsTo_nil (s : State) : RunsTo [] s True s := ⟨s, rfl, fun _ => rfl, fun h => absurd trivial h⟩

/-- A second sequence runs from where the first one ended, or is discarded whole. -/
theorem RunsTo.append {ws vs : List CmdWord} {s u v : State} {P Q : Prop} (hws : RunsTo ws s P u)
    (hvs : P → RunsTo vs u Q v) (hgate : ∀ w ∈ vs, w ≠ clrerrWord) : RunsTo (ws ++ vs) s (P ∧ Q) v := by
  obtain ⟨t, hrun, hdone, hfailed⟩ := hws
  by_cases hP : P
  · obtain ⟨x, hrun', hdone', hfailed'⟩ := hvs hP
    rw [← hdone hP] at hrun'
    exact ⟨x, (issueAll_append_of_next hrun vs).trans hrun', fun h => hdone' h.2, fun h => hfailed' (h ⟨hP, ·⟩)⟩
  · exact ⟨t, (issueAll_append_of_next hrun vs).trans (issueAll_of_err (hfailed hP) hgate), fun h => absurd h.1 hP,
      fun _ => hfailed hP⟩

/-- One command, past the gate, that leaves u where P holds and raises where it does not. -/
theorem runsTo_singleton {i : Instr} {s u : State} {P : Prop} (hdecode : decode (encode i) = .ok i)
    (herr : s.err = false) (hdone : P → exec i s = .next u) (hfailed : ¬ P → ∃ k, exec i s = raise k i s) :
    RunsTo [encode i] s P u := by
  have hissue := issue_encode hdecode herr
  by_cases hP : P
  · exact ⟨u, issueAll_cons_of_next (hissue.trans (hdone hP)) [], fun _ => rfl, fun h => absurd hP h⟩
  · obtain ⟨k, hk⟩ := hfailed hP
    exact ⟨s.enterError k (encode i), issueAll_cons_of_next (hissue.trans hk) [], fun h => absurd h hP, fun _ => rfl⟩

end Sys2Proof.Machine
end

section
/-! Padding and the Horner sum (42_ghash.md R171): the pieces of a padded string, what becomes of them and of the sum
when two strings are joined, and the blocks of a message. -/

namespace Sys2Proof.Machine

open Sys2Proof.Claims

/-! The pieces of pad16 -/

@[simp] theorem pad16_length (l : List Byte) : (pad16 l).length = (l.length + 15) / 16 := by simp [pad16]

@[simp] theorem padPiece_length (l : List Byte) (j : Nat) : (padPiece l j).length = 16 := by simp [padPiece]

@[simp] theorem pad16_nil : pad16 [] = [] := rfl

theorem getD_pad16 (l : List Byte) {j : Nat} (hj : j < (l.length + 15) / 16) : (pad16 l).getD j [] = padPiece l j := by
  simp [pad16, hj]

/-- Past the end of the string the padding is zero. -/
theorem getD_padPiece (l : List Byte) (j : Nat) {k : Nat} (hk : k < 16) :
    (padPiece l j).getD k 0 = if 16 * j + k < l.length then l.getD (16 * j + k) 0 else 0 := by
  have hbyte : (padPiece l j).getD k 0 = l.getD (16 * j + k) 0 := by simp [padPiece, hk]
  rw [hbyte]
  split
  case isTrue => rfl
  case isFalse hout => exact List.getD_eq_default _ _ (not_lt.1 hout)

theorem padPiece_append_left {x : List Byte} {m : Nat} (hx : x.length = 16 * m) (y : List Byte) {j : Nat}
    (hj : j < m) : padPiece (x ++ y) j = padPiece x j := by
  refine List.map_congr_left fun k hk => List.getD_append _ _ _ _ ?_
  have hk : k < 16 := List.mem_range.1 hk
  omega

theorem padPiece_append_right {x : List Byte} {m : Nat} (hx : x.length = 16 * m) (y : List Byte) (j : Nat) :
    padPiece (x ++ y) (m + j) = padPiece y j := by
  refine List.map_congr_left fun k _ => ?_
  have hpos : 16 * (m + j) + k - x.length = 16 * j + k := by omega
  rw [List.getD_append_right _ _ _ _ (by omega), hpos]

/-- Strings may be padded apart where the first fills its pieces or nothing follows it. -/
theorem pad16_append {x y : List Byte} (hx : x.length % 16 = 0 ∨ y = []) :
    pad16 (x ++ y) = pad16 x ++ pad16 y := by
  obtain hx | rfl := hx
  case inr => simp
  obtain ⟨m, hm⟩ : ∃ m, x.length = 16 * m := ⟨x.length / 16, by omega⟩
  have hcount : ((x ++ y).length + 15) / 16 = m + (y.length + 15) / 16 := by
    rw [List.length_append]
    omega
  have hcountx : (x.length + 15) / 16 = m := by omega
  have hleft : (List.range m).map (padPiece (x ++ y)) = (List.range m).map (padPiece x) :=
    List.map_congr_left fun j hj => padPiece_append_left hm y (List.mem_range.1 hj)
  have hright : padPiece (x ++ y) ∘ (m + ·) = padPiece y := funext (padPiece_append_right hm y)
  rw [pad16, hcount, List.range_add, List.map_append, List.map_map, hleft, hright, pad16, hcountx, pad16]

theorem horner_append (h x : Elem) (B C : List (List Byte)) : horner h x (B ++ C) = horner h (horner h x B) C :=
  List.foldl_append

/-! The pieces read from DMEM -/

theorem pad16_memRead (s : State) (n blk : Nat) : pad16 (s.memRead (blockAddr blk) n) = paddedPieces s n blk := by
  rw [pad16, State.memRead_length]
  refine List.map_congr_left fun j _ => List.map_congr_left fun k _ => ?_
  by_cases hin : 16 * j + k < n <;> simp [State.memRead, blockAddr, hin]

theorem horner_pad16_memRead (s : State) (n blk : Nat) :
    horner s.ghH s.ghAcc (pad16 (s.memRead (blockAddr blk) n)) = absorbed s n blk := by
  rw [pad16_memRead]
  rfl

/-! The blocks of a message -/

theorem rev128_zero : rev128 0 = 0 := by
  apply BitVec.eq_of_getLsbD_eq
  intro i hi
  simp [getLsbD_rev128 _ hi]

theorem blockToElem_zeros : blockToElem (List.replicate 16 0) = 0 := rev128_zero

/-- GFIN adds to the pieces of the ciphertext what GHASH puts after the associated data. -/
theorem pad16_append_finalBlocks {s : State} {ct : List Byte} {adBits : Nat} (had : s.ghAdBits.toNat = adBits)
    (hct : s.ghCtBits.toNat = 8 * ct.length) :
    pad16 ct ++ s.finalBlocks = ctBlocks ct ++ [lenBlock adBits (8 * ct.length)] := by
  have hempty : s.ghCtBits = 0 ↔ ct.length = 0 := by
    rw [← BitVec.toNat_inj, hct]
    simp
  rw [State.finalBlocks, ctBlocks, had, hct]
  simp only [hempty]
  split
  case isTrue h =>
    rw [List.length_eq_zero_iff.1 h]
    rfl
  case isFalse => rfl

end Sys2Proof.Machine
end

section
/-! The GHASH commands (42_ghash.md R173 to R178): the two streams of a message, so that what GAD and GCT have in common
is said once; each command past its checks; and the five obligations settled by them. -/

namespace Sys2Proof.Machine

open Sys2Proof.Claims

/-- The streams of a message, associated data and ciphertext (R171). -/
inductive GhashStream where
  | ad
  | ct

namespace GhashStream

/-! What the commands of the two streams do -/

/-- GAD or GCT. -/
def command : GhashStream → (n blk : Nat) → Instr
  | ad => .gad
  | ct => .gct

/-- The number in GH_ADBITS or GH_CTBITS. -/
def bits : GhashStream → State → Nat
  | ad, s => s.ghAdBits.toNat
  | ct, s => s.ghCtBits.toNat

/-- The phases in which the stream takes bytes. -/
def Ready : GhashStream → State → Prop
  | ad, s => s.gphase = .ad
  | ct, s => s.gphase = .ad ∨ s.gphase = .ct

/-- The check for an open stream (`isOpen_iff`). -/
def isOpen : GhashStream → State → Bool
  | ad, s => s.adOpen
  | ct, s => s.ctOpen

/-- The state once n bytes from a block on are absorbed (`exec_command`). -/
def absorb : GhashStream → (n blk : Nat) → State → State
  | ad, n, blk, s => (s.setAcc (horner s.ghH s.ghAcc (pad16 (s.memRead (blockAddr blk) n)))).addAdBits (8 * n)
  | ct, n, blk, s =>
    ((s.setAcc (horner s.ghH s.ghAcc (pad16 (s.memRead (blockAddr blk) n)))).addCtBits (8 * n)).setPhase .ct

/-- The command meets none of its errors (R174, R175). -/
structure Accepts (st : GhashStream) (n blk : Nat) (s : State) : Prop where
  ready : st.Ready s
  whole : st.bits s % 128 = 0
  nonempty : n ≠ 0
  inRange : s.bytesInRange blk n = true
  fits : st.bits s + 8 * n ≤ maxBitLen

variable {st : GhashStream} {n blk : Nat} {s : State}

theorem isOpen_iff : st.isOpen s = true ↔ st.Ready s ∧ st.bits s % 128 = 0 := by
  cases st <;> simp [isOpen, Ready, bits, State.adOpen, State.ctOpen]

theorem bits_le (st : GhashStream) (s : State) : st.bits s ≤ maxBitLen := by
  cases st
  case ad => exact Nat.le_pred_of_lt s.ghAdBits.isLt
  case ct => exact Nat.le_pred_of_lt s.ghCtBits.isLt

/-- GAD and GCT make the same checks in the same order. -/
theorem exec_command (st : GhashStream) (n blk : Nat) (s : State) : exec (st.command n blk) s =
    if !st.isOpen s then raise .sequenceError (st.command n blk) s
    else if n = 0 then raise .lengthMismatch (st.command n blk) s
    else if !s.bytesInRange blk n then raise .addressError (st.command n blk) s
    else if st.bits s + 8 * n > maxBitLen then raise .lengthOverflow (st.command n blk) s
    else .next (st.absorb n blk s) := by
  cases st <;> rfl

theorem exec_command_of_accepts (h : st.Accepts n blk s) : exec (st.command n blk) s = .next (st.absorb n blk s) := by
  have hopen := isOpen_iff.2 ⟨h.ready, h.whole⟩
  have hfits := not_lt.2 h.fits
  simp [exec_command, hopen, h.nonempty, h.inRange, hfits]

theorem exec_command_of_not_accepts (h : ¬ st.Accepts n blk s) :
    ∃ k, exec (st.command n blk) s = raise k (st.command n blk) s := by
  rw [exec_command]
  split
  case isTrue => exact ⟨_, rfl⟩
  split
  case isTrue => exact ⟨_, rfl⟩
  split
  case isTrue => exact ⟨_, rfl⟩
  split
  case isTrue => exact ⟨_, rfl⟩
  case isFalse hclosed hempty hout hover =>
    rw [Bool.not_eq_true', Bool.not_eq_false] at hclosed hout
    obtain ⟨hready, hwhole⟩ := isOpen_iff.1 hclosed
    exact absurd ⟨hready, hwhole, hempty, hout, not_lt.1 hover⟩ h

/-- The errors of GAD and GCT in their order, `closed` being how a statement says that the stream is not open. -/
theorem fails_or_of_accepts {closed W : Prop} [Decidable closed]
    (hclosed : closed ↔ ¬ (st.Ready s ∧ st.bits s % 128 = 0)) (hW : st.Accepts n blk s → W) :
    if closed then FailsWith (exec (st.command n blk) s) .sequenceError (st.command n blk) s
    else if n = 0 then FailsWith (exec (st.command n blk) s) .lengthMismatch (st.command n blk) s
    else if 16 * blk + n > s.params.dmemBytes then
      FailsWith (exec (st.command n blk) s) .addressError (st.command n blk) s
    else if st.bits s + 8 * n > 2 ^ 64 - 1 then
      FailsWith (exec (st.command n blk) s) .lengthOverflow (st.command n blk) s
    else W := by
  have hopen : (!st.isOpen s) = true ↔ closed := by rw [hclosed, ← isOpen_iff, Bool.not_eq_true', Bool.not_eq_true]
  have hrange : (!s.bytesInRange blk n) = true ↔ 16 * blk + n > s.params.dmemBytes := by
    rw [State.bytesInRange, blockAddr, Bool.not_eq_true', decide_eq_false_iff_not, not_le]
  rw [exec_command]
  simp only [hopen, hrange]
  split
  case isTrue => exact failsWith_raise _ _ s
  split
  case isTrue => exact failsWith_raise _ _ s
  split
  case isTrue => exact failsWith_raise _ _ s
  split
  case isTrue hover =>
    rw [if_pos (c := st.bits s + 8 * n > maxBitLen) hover]
    exact failsWith_raise _ _ s
  case isFalse hisOpen hnonempty hin hfits =>
    obtain ⟨hready, hwhole⟩ := not_not.1 (mt hclosed.2 hisOpen)
    have hinRange : s.bytesInRange blk n = true := decide_eq_true (not_lt.1 hin)
    exact hW ⟨hready, hwhole, hnonempty, hinRange, not_lt.1 hfits⟩

end GhashStream

/-! The frame of a command that writes the GHASH state -/

/-- All but the GHASH state is the same. -/
def SameButGhash (s t : State) : Prop :=
  SameE s t ∧ SameP s t ∧ SameFlags s t ∧ SameResult s t ∧ SameError s t ∧ SameMem s t ∧ SameBus s t

theorem sameButGhash_startMessage (s : State) (h ey0 : Elem) : SameButGhash s (s.startMessage h ey0) := by
  simp [SameButGhash, SameE, SameP, SameFlags, SameResult, SameError, SameMem, SameBus]

theorem sameButGhash_absorb (st : GhashStream) (n blk : Nat) (s : State) : SameButGhash s (st.absorb n blk s) := by
  cases st <;>
    simp [GhashStream.absorb, SameButGhash, SameE, SameP, SameFlags, SameResult, SameError, SameMem, SameBus]

/-- The state once GFIN has absorbed its blocks (`exec_gfin_of_ready`). -/
def State.finish (s : State) : State := (s.setAcc (horner s.ghH s.ghAcc s.finalBlocks)).setPhase .done

theorem sameButGhash_finish (s : State) : SameButGhash s s.finish := by
  simp [State.finish, SameButGhash, SameE, SameP, SameFlags, SameResult, SameError, SameMem, SameBus]

theorem SameButGhash.writesGhash {s t : State} {o : Host.Outcome State Fault Refusal} (h : SameButGhash s t)
    (ho : o = .next t) : WritesGhash o t.ghH t.ghEy0 t.ghAcc t.ghAdBits.toNat t.ghCtBits.toNat t.gphase s :=
  ⟨t, ho, rfl, rfl, rfl, rfl, rfl, rfl, h⟩

/-- A counter does not wrap where its new value is at most the largest bit length. -/
theorem toNat_add_of_le_maxBitLen {b : BitVec 64} {k : Nat} (h : b.toNat + k ≤ maxBitLen) :
    (b + BitVec.ofNat 64 k).toNat = b.toNat + k := by
  have hlt : b.toNat + k < 2 ^ 64 := Nat.lt_of_le_pred (by decide) h
  rw [BitVec.toNat_add, BitVec.toNat_ofNat, Nat.add_mod_mod, Nat.mod_eq_of_lt hlt]

/-! The commands past their checks -/

theorem exec_gfin_of_ready {s : State} (h : s.gphase = .ad ∨ s.gphase = .ct) : exec .gfin s = .next s.finish := if_pos h

theorem exec_gfin_of_not_ready {s : State} (h : ¬ (s.gphase = .ad ∨ s.gphase = .ct)) :
    exec .gfin s = raise .sequenceError .gfin s := if_neg h

theorem exec_gtag_of_done {s : State} (h : s.gphase = .done) (a : EReg) :
    exec (.gtag a) s = .next (s.writeE a (s.ghAcc ^^^ s.ghEy0)) := if_pos h

theorem exec_gtag_of_not_done {s : State} (h : s.gphase ≠ .done) (a : EReg) :
    exec (.gtag a) s = raise .sequenceError (.gtag a) s := if_neg h

/-- The one zero block of an empty ciphertext changes nothing before it is multiplied. -/
theorem horner_finalBlocks (s : State) : horner s.ghH s.ghAcc s.finalBlocks =
    gfmul ((if s.ghCtBits.toNat = 0 then gfmul (s.ghAcc ^^^ 0) s.ghH else s.ghAcc) ^^^
      blockToElem (lenBlock s.ghAdBits.toNat s.ghCtBits.toNat)) s.ghH := by
  have hempty : s.ghCtBits = 0 ↔ s.ghCtBits.toNat = 0 := (BitVec.toNat_inj (y := 0)).symm
  rw [State.finalBlocks]
  simp only [hempty]
  split
  case isTrue =>
    rw [← blockToElem_zeros]
    rfl
  case isFalse => rfl

/-! The obligations -/

/-- Settles O34: GINIT has no check, and starting a message touches the GHASH state alone. -/
theorem ginitStartsAMessage : Obligations.GinitStartsAMessage := by
  unfold Obligations.GinitStartsAMessage
  exact fun b c s => (sameButGhash_startMessage s (s.readE b) (s.readE c)).writesGhash rfl

/-- Settles O35: past its checks GAD absorbs the pieces of what it reads, and its counter does not wrap. -/
theorem gadAbsorbsOrRaises : Obligations.GadAbsorbsOrRaises := by
  unfold Obligations.GadAbsorbsOrRaises
  intro n blk s
  refine GhashStream.fails_or_of_accepts (st := .ad) not_and_or.symm fun hacc => ?absorbs
  case absorbs =>
    have hphase : s.gphase = .ad := hacc.ready
    have hbits := toNat_add_of_le_maxBitLen hacc.fits
    have h := (sameButGhash_absorb .ad n blk s).writesGhash (GhashStream.exec_command_of_accepts hacc)
    simpa [GhashStream.absorb, GhashStream.command, horner_pad16_memRead, hphase, hbits] using h

/-- Settles O36: past its checks GCT absorbs the pieces of what it reads, and its counter does not wrap. -/
theorem gctAbsorbsOrRaises : Obligations.GctAbsorbsOrRaises := by
  unfold Obligations.GctAbsorbsOrRaises
  intro n blk s
  refine GhashStream.fails_or_of_accepts (st := .ct) ?closed fun hacc => ?absorbs
  case closed => rw [not_and_or, GhashStream.Ready, not_or, GhashStream.bits]
  case absorbs =>
    have hbits := toNat_add_of_le_maxBitLen hacc.fits
    have h := (sameButGhash_absorb .ct n blk s).writesGhash (GhashStream.exec_command_of_accepts hacc)
    simpa [GhashStream.absorb, GhashStream.command, horner_pad16_memRead, hbits] using h

/-- Settles O37: past the phase check GFIN absorbs its one or two blocks. -/
theorem gfinAppliesTheLengthBlock : Obligations.GfinAppliesTheLengthBlock := by
  unfold Obligations.GfinAppliesTheLengthBlock
  intro s
  split
  case isTrue hphase =>
    rw [exec_gfin_of_not_ready (not_or.2 hphase)]
    exact failsWith_raise _ _ s
  case isFalse hphase =>
    rw [← horner_finalBlocks]
    exact (sameButGhash_finish s).writesGhash (exec_gfin_of_ready (by tauto))

/-- Settles O38: each is one register write, GTAG's behind the phase check. -/
theorem gtagAndGrdReadTheAccumulator : Obligations.GtagAndGrdReadTheAccumulator := by
  unfold Obligations.GtagAndGrdReadTheAccumulator
  refine fun a s => ⟨?gtag, writesE_writeE s a _⟩
  case gtag =>
    split
    case isTrue hdone =>
      rw [exec_gtag_of_done hdone]
      exact writesE_writeE s a _
    case isFalse hdone =>
      rw [exec_gtag_of_not_done hdone]
      exact failsWith_raise _ _ s

end Sys2Proof.Machine
end

section
/-! A whole message (42_ghash.md R179): what a sequence of GADs or of GCTs absorbs, when it meets no error, that GFIN
ends with the GHASH of the joined bytes, and the obligation settled by it. -/

namespace Sys2Proof.Machine

open Sys2Proof.Claims

/-! Lists of chunks -/

theorem chunkBytes_congr {s t : State} (h : t.memRead = s.memRead) (chunks : List (Nat × Nat)) :
    chunkBytes t chunks = chunkBytes s chunks := by rw [chunkBytes, chunkBytes, h]

theorem chunkBytes_cons (s : State) (c : Nat × Nat) (cs : List (Nat × Nat)) :
    chunkBytes s (c :: cs) = s.memRead (blockAddr c.2) c.1 ++ chunkBytes s cs := rfl

theorem chunkBytes_startMessage (s : State) (h ey0 : Elem) (chunks : List (Nat × Nat)) :
    chunkBytes (s.startMessage h ey0) chunks = chunkBytes s chunks := rfl

theorem bytesInRange_congr {s t : State} (h : t.params = s.params) (blk n : Nat) :
    t.bytesInRange blk n = s.bytesInRange blk n := by rw [State.bytesInRange, State.bytesInRange, h]

theorem chunksFit_congr {s t : State} (h : t.params = s.params) (chunks : List (Nat × Nat)) :
    ChunksFit t chunks ↔ ChunksFit s chunks := by simp only [ChunksFit, bytesInRange_congr h]

theorem chunksFit_cons (s : State) (c : Nat × Nat) (cs : List (Nat × Nat)) : ChunksFit s (c :: cs) ↔
    (0 < c.1 ∧ c.1 < 2 ^ 8 ∧ c.2 < 2 ^ 14 ∧ s.bytesInRange c.2 c.1 = true) ∧
      (c.1 % 16 = 0 ∨ cs = []) ∧ ChunksFit s cs := by
  cases cs with
  | nil => simp [ChunksFit]
  | cons d ds =>
    simp only [ChunksFit, List.dropLast_cons_cons, List.forall_mem_cons (a := c), reduceCtorEq, or_false]
    tauto

namespace GhashStream

/-! A sequence of one stream's commands -/

/-- Every command of the sequence meets none of its errors. -/
def AcceptsAll (st : GhashStream) : List (Nat × Nat) → State → Prop
  | [], _ => True
  | c :: cs, s => st.Accepts c.1 c.2 s ∧ st.AcceptsAll cs (st.absorb c.1 c.2 s)

/-- The state once every chunk is absorbed (`runsTo_absorbAll`). -/
def absorbAll (st : GhashStream) : List (Nat × Nat) → State → State
  | [], s => s
  | c :: cs, s => st.absorbAll cs (st.absorb c.1 c.2 s)

/-- The words of a sequence. -/
def words (st : GhashStream) (chunks : List (Nat × Nat)) : List CmdWord :=
  chunks.map fun c => encode (st.command c.1 c.2)

variable {st : GhashStream} {n blk : Nat} {c : Nat × Nat} {cs chunks : List (Nat × Nat)} {s : State}

theorem decode_encode_command (st : GhashStream) (hn : n < 2 ^ 8) (hblk : blk < 2 ^ 14) :
    decode (encode (st.command n blk)) = .ok (st.command n blk) := by
  cases st
  case ad => exact decode_encode_gad hn hblk
  case ct => exact decode_encode_gct hn hblk

theorem command_ne_clrerr (st : GhashStream) (n blk : Nat) : st.command n blk ≠ .clrerr := by
  cases st <;> exact nofun

theorem words_ne_clrerrWord (henc : ChunksEncodable chunks) : ∀ w ∈ st.words chunks, w ≠ clrerrWord := by
  intro w hw
  obtain ⟨c, hc, rfl⟩ := List.mem_map.1 hw
  obtain ⟨hn, hblk⟩ := henc c hc
  exact encode_ne_clrerrWord (decode_encode_command st hn hblk) (command_ne_clrerr st _ _)

@[simp] theorem absorb_err (st : GhashStream) (n blk : Nat) (s : State) : (st.absorb n blk s).err = s.err := by
  cases st <;> rfl

/-- Issuing the words absorbs every chunk, or leaves the error of the first command that is not accepted. -/
theorem runsTo_absorbAll (herr : s.err = false) (henc : ChunksEncodable chunks) :
    RunsTo (st.words chunks) s (st.AcceptsAll chunks s) (st.absorbAll chunks s) := by
  induction chunks generalizing s with
  | nil => exact runsTo_nil s
  | cons c cs ih =>
    obtain ⟨⟨hn, hblk⟩, henc⟩ := List.forall_mem_cons.1 henc
    have hfirst := runsTo_singleton (decode_encode_command st hn hblk) herr exec_command_of_accepts
      exec_command_of_not_accepts
    exact hfirst.append (fun _ => ih ((st.absorb_err _ _ s).trans herr) henc) (words_ne_clrerrWord henc)

/-! What a stream's commands absorb -/

/-- The other stream of the message. -/
def other : GhashStream → GhashStream
  | ad => ct
  | ct => ad

/-- From s to t the engine absorbs these bytes into the stream. -/
structure Absorbs (st : GhashStream) (bytes : List Byte) (s t : State) : Prop where
  acc : t.ghAcc = horner s.ghH s.ghAcc (pad16 bytes)
  bits : st.bits t = st.bits s + 8 * bytes.length
  otherBits : st.other.bits t = st.other.bits s
  ready : st.Ready s → st.Ready t
  ghH : t.ghH = s.ghH
  ghEy0 : t.ghEy0 = s.ghEy0
  err : t.err = s.err
  memRead : t.memRead = s.memRead
  params : t.params = s.params

theorem absorbs_nil (st : GhashStream) (s : State) : st.Absorbs [] s s :=
  ⟨rfl, rfl, rfl, id, rfl, rfl, rfl, rfl, rfl⟩

theorem absorbs_absorb (h : st.Accepts n blk s) :
    st.Absorbs (s.memRead (blockAddr blk) n) s (st.absorb n blk s) := by
  have hlen := s.memRead_length (blockAddr blk) n
  cases st
  case ad =>
    exact ⟨rfl, hlen.symm ▸ toNat_add_of_le_maxBitLen h.fits, rfl, id, rfl, rfl, rfl, rfl, rfl⟩
  case ct =>
    exact ⟨rfl, hlen.symm ▸ toNat_add_of_le_maxBitLen h.fits, rfl, fun _ => .inr rfl, rfl, rfl, rfl, rfl, rfl⟩

/-- Absorbing one string and then another is absorbing both joined, where the first fills its blocks. -/
theorem Absorbs.trans {x y : List Byte} {t u : State} (hx : st.Absorbs x s t) (hy : st.Absorbs y t u)
    (hfull : x.length % 16 = 0 ∨ y = []) : st.Absorbs (x ++ y) s u where
  acc := by rw [hy.acc, hx.acc, hx.ghH, pad16_append hfull, horner_append]
  bits := by rw [hy.bits, hx.bits, List.length_append, Nat.mul_add, Nat.add_assoc]
  otherBits := hy.otherBits.trans hx.otherBits
  ready := hy.ready ∘ hx.ready
  ghH := hy.ghH.trans hx.ghH
  ghEy0 := hy.ghEy0.trans hx.ghEy0
  err := hy.err.trans hx.err
  memRead := hy.memRead.trans hx.memRead
  params := hy.params.trans hx.params

/-- A partial block closes the stream, so only the last command may end on one. -/
theorem full_or_last_of_acceptsAll (h : st.AcceptsAll (c :: cs) s) : c.1 % 16 = 0 ∨ cs = [] := by
  obtain ⟨hfirst, hrest⟩ := h
  cases cs with
  | nil => exact .inr rfl
  | cons d ds =>
    obtain ⟨hnext, -⟩ := hrest
    have hbits := (absorbs_absorb hfirst).bits
    rw [State.memRead_length] at hbits
    have hwhole := hfirst.whole
    have hwhole' := hnext.whole
    omega

theorem absorbs_absorbAll (h : st.AcceptsAll chunks s) :
    st.Absorbs (chunkBytes s chunks) s (st.absorbAll chunks s) := by
  induction chunks generalizing s with
  | nil => exact absorbs_nil st s
  | cons c cs ih =>
    have hfull := full_or_last_of_acceptsAll h
    obtain ⟨hfirst, hrest⟩ := h
    have hone := absorbs_absorb hfirst
    have hmore := ih hrest
    rw [chunkBytes_congr hone.memRead] at hmore
    refine hone.trans hmore (hfull.imp (fun hc => ?full) fun hcs => ?last)
    case full => rwa [State.memRead_length]
    case last => rw [hcs]; rfl

/-! When a stream's commands meet no error -/

/-- The commands of an open stream meet no error exactly when the chunks fit and the bits can be counted. -/
theorem acceptsAll_iff (hready : st.Ready s) (hwhole : st.bits s % 128 = 0 ∨ chunks = [])
    (henc : ChunksEncodable chunks) :
    st.AcceptsAll chunks s ↔ ChunksFit s chunks ∧ st.bits s + 8 * (chunkBytes s chunks).length ≤ maxBitLen := by
  induction chunks generalizing s with
  | nil => simpa [AcceptsAll, ChunksFit, chunkBytes] using st.bits_le s
  | cons c cs ih =>
    obtain ⟨⟨hn, hblk⟩, henc⟩ := List.forall_mem_cons.1 henc
    have hwhole : st.bits s % 128 = 0 := hwhole.resolve_right (List.cons_ne_nil c cs)
    rw [chunksFit_cons, chunkBytes_cons, List.length_append, State.memRead_length]
    /- After the first command the rest is the same statement again, by the bytes it absorbed. -/
    have hrest (hfirst : st.Accepts c.1 c.2 s) (hfull : c.1 % 16 = 0 ∨ cs = []) :
        st.AcceptsAll cs (st.absorb c.1 c.2 s) ↔
          ChunksFit s cs ∧ st.bits s + 8 * c.1 + 8 * (chunkBytes s cs).length ≤ maxBitLen := by
      have hone := absorbs_absorb hfirst
      have hbits := hone.bits
      rw [State.memRead_length] at hbits
      rw [ih (hone.ready hready) (hfull.imp_left fun _ => by omega) henc, chunksFit_congr hone.params,
        chunkBytes_congr hone.memRead, hbits]
    constructor
    case mp =>
      intro h
      have hfull := full_or_last_of_acceptsAll h
      obtain ⟨hfirst, hmore⟩ := h
      obtain ⟨hfit, hcount⟩ := (hrest hfirst hfull).1 hmore
      exact ⟨⟨⟨Nat.pos_of_ne_zero hfirst.nonempty, hn, hblk, hfirst.inRange⟩, hfull, hfit⟩, by omega⟩
    case mpr =>
      rintro ⟨⟨⟨hpos, -, -, hinRange⟩, hfull, hfit⟩, hcount⟩
      have hfirst : st.Accepts c.1 c.2 s := ⟨hready, hwhole, hpos.ne', hinRange, by omega⟩
      exact ⟨hfirst, (hrest hfirst hfull).2 ⟨hfit, by omega⟩⟩

end GhashStream

/-! The message -/

section

open GhashStream

variable (s : State) (h ey0 : Elem) {ads cts : List (Nat × Nat)}

/-- No GAD and no GCT of the message meets an error. -/
def MessageAccepted (ads cts : List (Nat × Nat)) (s : State) : Prop :=
  ad.AcceptsAll ads s ∧ ct.AcceptsAll cts (ad.absorbAll ads s)

/-- The state once the GADs and the GCTs have run, before GFIN (`runsTo_message`). -/
def State.absorbMessage (ads cts : List (Nat × Nat)) (s : State) : State := ct.absorbAll cts (ad.absorbAll ads s)

/-- R179's conditions: those of the GADs and those of the GCTs, each stream beginning empty. -/
theorem messageAccepted_startMessage_iff (hads : ChunksEncodable ads) (hcts : ChunksEncodable cts) :
    MessageAccepted ads cts (s.startMessage h ey0) ↔
      ChunksFit s ads ∧ ChunksFit s cts ∧ 8 * (chunkBytes s ads).length ≤ 2 ^ 64 - 1 ∧
        8 * (chunkBytes s cts).length ≤ 2 ^ 64 - 1 := by
  have had : ad.AcceptsAll ads (s.startMessage h ey0) ↔
      ChunksFit s ads ∧ 8 * (chunkBytes s ads).length ≤ 2 ^ 64 - 1 := by
    have hempty : ad.bits (s.startMessage h ey0) = 0 := rfl
    have hiff := acceptsAll_iff (st := ad) (s := s.startMessage h ey0) rfl (.inl rfl) hads
    rwa [chunksFit_congr (s.startMessage_params h ey0), chunkBytes_startMessage, hempty, Nat.zero_add] at hiff
  have hct (haccepted : ad.AcceptsAll ads (s.startMessage h ey0)) :
      ct.AcceptsAll cts (ad.absorbAll ads (s.startMessage h ey0)) ↔
        ChunksFit s cts ∧ 8 * (chunkBytes s cts).length ≤ 2 ^ 64 - 1 := by
    have hdone := absorbs_absorbAll haccepted
    have hempty : ct.bits (ad.absorbAll ads (s.startMessage h ey0)) = 0 := hdone.otherBits
    have hiff := acceptsAll_iff (st := ct) (.inl (hdone.ready rfl)) (.inl (by rw [hempty])) hcts
    rwa [chunksFit_congr (hdone.params.trans rfl), chunkBytes_congr hdone.memRead, chunkBytes_startMessage, hempty,
      Nat.zero_add] at hiff
  rw [MessageAccepted, and_congr_right hct, had]
  tauto

/-- Issuing a message's words runs all of it, or leaves the error of the first command that meets one. -/
theorem runsTo_message {eH eY : EReg} (herr : s.err = false) (hads : ChunksEncodable ads)
    (hcts : ChunksEncodable cts) :
    RunsTo ((messageCommands eH eY ads cts).map encode) s
      (MessageAccepted ads cts (s.startMessage (s.readE eH) (s.readE eY)))
      (State.absorbMessage ads cts (s.startMessage (s.readE eH) (s.readE eY))).finish := by
  have hwords : (messageCommands eH eY ads cts).map encode =
      [encode (.ginit eH eY)] ++ ad.words ads ++ ct.words cts ++ [encode .gfin] := by
    simp [messageCommands, words, command, Function.comp_def]
  have hginit := runsTo_singleton (P := True) (decode_encode_ginit eH eY) herr (fun _ => rfl) (absurd trivial)
  have hgads := hginit.append (fun _ => runsTo_absorbAll (st := ad) herr hads) (words_ne_clrerrWord hads)
  have hgcts := hgads.append
    (fun haccepted => runsTo_absorbAll ((absorbs_absorbAll haccepted.2).err.trans herr) hcts)
    (words_ne_clrerrWord (st := ct) hcts)
  have hgfin := hgcts.append (Q := True) (vs := [encode .gfin])
    (v := (State.absorbMessage ads cts (s.startMessage (s.readE eH) (s.readE eY))).finish) (fun haccepted => ?gfin) ?gate
  case gfin =>
    obtain ⟨⟨-, had⟩, hct⟩ := haccepted
    have hdone := absorbs_absorbAll had
    have hdone' := absorbs_absorbAll hct
    exact runsTo_singleton decode_encode_gfin ((hdone'.err.trans hdone.err).trans herr)
      (fun _ => exec_gfin_of_ready (hdone'.ready (.inl (hdone.ready rfl)))) (absurd trivial)
  case gate => simpa using encode_ne_clrerrWord decode_encode_gfin nofun
  rw [hwords, MessageAccepted]
  simpa only [true_and, and_true] using hgfin

/-- What a message that meets no error leaves. -/
theorem finish_absorbMessage (haccepted : MessageAccepted ads cts (s.startMessage h ey0)) :
    (State.absorbMessage ads cts (s.startMessage h ey0)).finish.ghAcc = ghash h (chunkBytes s ads) (chunkBytes s cts) ∧
    (State.absorbMessage ads cts (s.startMessage h ey0)).finish.ghEy0 = ey0 ∧
    (State.absorbMessage ads cts (s.startMessage h ey0)).finish.err = s.err := by
  obtain ⟨had, hct⟩ := haccepted
  have hdone := absorbs_absorbAll had
  have hdone' := absorbs_absorbAll hct
  rw [chunkBytes_congr hdone.memRead, chunkBytes_startMessage] at hdone'
  rw [chunkBytes_startMessage] at hdone
  have hadBits := hdone'.otherBits.trans (hdone.bits.trans (Nat.zero_add _))
  have hctBits := hdone'.bits.trans ((congrArg (· + _) hdone.otherBits).trans (Nat.zero_add _))
  refine ⟨?acc, hdone'.ghEy0.trans hdone.ghEy0, hdone'.err.trans hdone.err⟩
  case acc =>
    have hH : (State.absorbMessage ads cts (s.startMessage h ey0)).ghH = h := hdone'.ghH.trans hdone.ghH
    have hblocks := pad16_append_finalBlocks hadBits hctBits
    calc (State.absorbMessage ads cts (s.startMessage h ey0)).finish.ghAcc
        = horner h (horner h (horner h 0 (pad16 (chunkBytes s ads))) (pad16 (chunkBytes s cts)))
            (State.absorbMessage ads cts (s.startMessage h ey0)).finalBlocks := by
          rw [State.finish, State.setPhase_ghAcc, State.setAcc_ghAcc, hH, State.absorbMessage, hdone'.acc, hdone.ghH,
            hdone.acc]
          rfl
      _ = ghash h (chunkBytes s ads) (chunkBytes s cts) := by
          rw [← horner_append, State.absorbMessage, hblocks, ← horner_append, ← List.append_assoc]
          rfl

end

/-- Settles O57: a message runs to its end exactly when no chunk meets an error, its pieces are then those of the joined
bytes, and GTAG adds E(Y0). -/
theorem messageSequenceComputesGhash : Obligations.MessageSequenceComputesGhash := by
  unfold Obligations.MessageSequenceComputesGhash
  refine ⟨fun l => ⟨pad16_length l, fun j hj => ?padding⟩, fun s eH eY ads cts herr hads hcts => ?message⟩
  case padding =>
    rw [getD_pad16 l hj]
    exact ⟨padPiece_length l j, fun k hk => getD_padPiece l j hk⟩
  case message =>
    obtain ⟨t, hrun, hdone, hfailed⟩ := runsTo_message (eH := eH) (eY := eY) s herr hads hcts
    have hend := finish_absorbMessage (ads := ads) (cts := cts) s (s.readE eH) (s.readE eY)
    have haccepted : t.err = false ↔ MessageAccepted ads cts (s.startMessage (s.readE eH) (s.readE eY)) := by
      constructor
      case mp => exact fun h => by_contra fun hnot => by simp [hfailed hnot] at h
      case mpr =>
        intro h
        obtain ⟨-, -, hterr⟩ := hend h
        rw [hdone h, hterr, herr]
    refine ⟨t, hrun, haccepted.trans (messageAccepted_startMessage_iff s _ _ hads hcts), fun hterr => ?result⟩
    case result =>
      have hall := haccepted.1 hterr
      obtain ⟨hacc, hey0, -⟩ := hend hall
      rw [← hdone hall] at hacc hey0
      have hphase : t.gphase = .done := by rw [hdone hall]; rfl
      refine ⟨hacc, fun a => ⟨_, (issue_encode (decode_encode_gtag a) hterr).trans (exec_gtag_of_done hphase a), ?_⟩⟩
      rw [State.readE_writeE_same, hacc, hey0, gcmTag]

end Sys2Proof.Machine
end

section
/-! The control commands (43_control.md R190, R191): the frame of clearing a pending error, and the obligation settled
by it. -/

namespace Sys2Proof.Machine

theorem clearError_frame (s : State) :
    SameE s s.clearError ∧ SameP s s.clearError ∧ SameFlags s s.clearError ∧ SameResult s s.clearError ∧
      SameGhash s s.clearError ∧ SameMem s s.clearError ∧ SameBus s s.clearError := by
  simp [SameE, SameP, SameFlags, SameResult, SameGhash, SameMem, SameBus]

theorem exec_nop (s : State) : exec .nop s = .next s := rfl

theorem exec_clrerr (s : State) : exec .clrerr s = .next s.clearError := rfl

/-- Settles O18: NOP answers its own state, and CLRERR is one clearing of the error fields, which touches nothing
else. -/
theorem nopAndClrerrEffects : Obligations.NopAndClrerrEffects := by
  unfold Obligations.NopAndClrerrEffects
  exact fun s => ⟨exec_nop s, s.clearError, exec_clrerr s, s.clearError_err, s.clearError_errCode,
    s.clearError_errCmd, clearError_frame s⟩

end Sys2Proof.Machine
end

section
/-! Encoding what was decoded (30_encoding.md R82 to R89): the operand fields of a row are the bits that its mask leaves
free, so a legal word is the word of the command it decodes to. -/

namespace Sys2Proof.Machine

/-! Putting the fields of a word back in their places (R83, R84) -/

/-- A field read at bit `pos` and put back there is the word with every other bit cleared. -/
theorem place_extractLsb' (w : CmdWord) {pos k : Nat} {m : CmdWord} (hm : place (BitVec.allOnes k) pos = m) :
    place (w.extractLsb' pos k) pos = w &&& m := by
  subst hm
  ext i hi
  by_cases hpos : i < pos
  · simp [place, hpos]
  · have hback : pos + (i - pos) = i := by omega
    simp [place, hpos, hback, hi, BitVec.getLsbD_eq_getElem, Bool.and_comm]

theorem place_fieldsOf_a (w : CmdWord) : place (BitVec.ofFin (w := 4) (fieldsOf w).a) 22 = w &&& 0x03C00000#32 :=
  place_extractLsb' w (by decide)

theorem place_fieldsOf_b (w : CmdWord) : place (BitVec.ofFin (w := 4) (fieldsOf w).b) 18 = w &&& 0x003C0000#32 :=
  place_extractLsb' w (by decide)

theorem place_fieldsOf_c (w : CmdWord) : place (BitVec.ofFin (w := 4) (fieldsOf w).c) 14 = w &&& 0x0003C000#32 :=
  place_extractLsb' w (by decide)

theorem place_fieldsOf_n (w : CmdWord) : place (BitVec.ofNat 8 (fieldsOf w).n) 14 = w &&& 0x003FC000#32 := by
  rw [fieldsOf, BitVec.ofNat_toNat, BitVec.setWidth_eq]
  exact place_extractLsb' w (by decide)

theorem place_fieldsOf_imm (w : CmdWord) : place (BitVec.ofNat 14 (fieldsOf w).imm) 0 = w &&& 0x00003FFF#32 := by
  rw [fieldsOf, BitVec.ofNat_toNat, BitVec.setWidth_eq]
  exact place_extractLsb' w (by decide)

theorem place_fieldsOf_blk (w : CmdWord) : place (BitVec.ofNat 14 (fieldsOf w).blk) 0 = w &&& 0x00003FFF#32 :=
  place_fieldsOf_imm w

theorem place_zero (k pos : Nat) : place (0#k) pos = 0#32 := by simp [place]

/-! A legal word is rebuilt from its row and its fields (R85, R86, R89) -/

/-- Every bit that a row's mask leaves free belongs to an operand field, and the encoder puts each field back; what it
adds to them is the opcode, which is the row's whole pattern. -/
theorem encode_build_fieldsOf (w : CmdWord) :
    ∀ r ∈ opRows, encode (r.build (fieldsOf w)) = r.pattern ||| (w &&& ~~~r.mask) := by
  simp only [opRows, opRowsField, opRowsPolyGhash, List.cons_append, List.nil_append, List.forall_mem_cons,
    List.not_mem_nil, IsEmpty.forall_iff, implies_true, and_true]
  and_intros
  all_goals
    simp [encode, wordR, wordI, wordM, wordN, place_fieldsOf_a, place_fieldsOf_b, place_fieldsOf_c, place_fieldsOf_n,
      place_fieldsOf_imm, place_fieldsOf_blk, place_zero, BitVec.or_assoc, ← BitVec.and_or_distrib_left] <;> rfl

theorem decode_eq_ok {w : CmdWord} {i : Instr} (h : decode w = .ok i) :
    ∃ r ∈ opRows, w &&& r.mask = r.pattern ∧ r.build (fieldsOf w) = i := by
  unfold decode at h
  split at h
  · cases h
  · rename_i r hrow
    split at h
    · rename_i hfixed
      exact ⟨r, List.mem_of_find?_eq_some hrow, hfixed, Except.ok.inj h⟩
    · cases h

theorem encode_of_decode {w : CmdWord} {i : Instr} (h : decode w = .ok i) : encode i = w := by
  obtain ⟨r, hr, hfixed, rfl⟩ := decode_eq_ok h
  rw [encode_build_fieldsOf w r hr, ← hfixed, ← BitVec.and_or_distrib_left, BitVec.or_not_self, BitVec.and_allOnes]

end Sys2Proof.Machine
end

section
/-! Errors (60_exceptions.md R200 to R205): the error codes the commands raise, what issuing a word that raises leaves,
the error gate, and the two obligations settled by them. -/

namespace Sys2Proof.Machine

variable {s : State}

/-! The codes the commands raise (R200, R202) -/

/-- An error that the outcome adds to a state without one has a code that GFAE raises. -/
def NewErrorListed (s : State) (o : Host.Outcome State Fault Refusal) : Prop :=
  ∀ t, o = .next t → s.err = false → t.err = true → t.errCode ∈ raisedCodes

theorem newErrorListed_next {t : State} (h : t.err = true → s.err = true) : NewErrorListed s (.next t) := by
  rintro u ⟨⟩ hs ht
  exact absurd (h ht) (by simp [hs])

theorem newErrorListed_raise {k : ErrKind} (hk : k.code ∈ raisedCodes) (i : Instr) :
    NewErrorListed s (raise k i s) := by
  rintro u ⟨⟩ - -
  exact hk

theorem NewErrorListed.raiseIf {o : Host.Outcome State Fault Refusal} {c : Prop} [Decidable c] {k : ErrKind} {i : Instr}
    (hk : k.code ∈ raisedCodes) (ho : NewErrorListed s o) : NewErrorListed s (if c then raise k i s else o) := by
  split
  · exact newErrorListed_raise hk i
  · exact ho

theorem NewErrorListed.raiseUnless {o : Host.Outcome State Fault Refusal} {c : Prop} [Decidable c] {k : ErrKind}
    {i : Instr} (hk : k.code ∈ raisedCodes) (ho : NewErrorListed s o) :
    NewErrorListed s (if c then o else raise k i s) := by
  split
  · exact ho
  · exact newErrorListed_raise hk i

/-- The commands by the checks they make: none, one, or the sequences of PLD, GAD and GCT (R206). -/
theorem exec_newErrorListed (i : Instr) (s : State) : NewErrorListed s (exec i s) := by
  cases i with
  | nop | clrerr | fadd | fmul | fpow | fcmp | fmov | fli | padd | pmov | pdeg | pgetc | ginit | grd =>
    exact newErrorListed_next (by simp)
  | finv | fdiv | pmul | pdiv | pmod | pgcd | pmonic | psetc =>
    exact .raiseIf (by decide) (newErrorListed_next (by simp))
  | fldb | fstb | fldi | fsti | pst | gfin | gtag => exact .raiseUnless (by decide) (newErrorListed_next (by simp))
  | pld => exact .raiseUnless (by decide) (.raiseIf (by decide) (newErrorListed_next (by simp)))
  | gad | gct =>
    exact .raiseIf (by decide) (.raiseIf (by decide) (.raiseIf (by decide) (.raiseIf (by decide)
      (newErrorListed_next (by simp)))))

/-! What a word that raises leaves (R201, R204) -/

theorem exec_raises {i : Instr} {t : State} (hexec : exec i s = .next t) (hs : s.err = false) (ht : t.err = true) :
    ∃ k : ErrKind, k.code ∈ raisedCodes ∧ t = s.enterError k (encode i) := by
  have hlisted := exec_newErrorListed i s t hexec hs ht
  cases exec_next_effect hexec with
  | fails k => exact ⟨k, hlisted, rfl⟩
  | _ => simp [hs] at ht

theorem issue_raises {w : CmdWord} {t : State} (hissue : issue w s = .next t) (hs : s.err = false) (ht : t.err = true) :
    ∃ k : ErrKind, k.code ∈ raisedCodes ∧ t = s.enterError k w := by
  obtain ⟨hdiscards, -⟩ | ⟨i, -, hdecode, hexec⟩ | ⟨x, -, -, hillegal⟩ := issue_cases w s
  · simp [State.gateDiscards, hs] at hdiscards
  · rw [← encode_of_decode hdecode]
    exact exec_raises (hexec.symm.trans hissue) hs ht
  · cases hillegal.symm.trans hissue
    exact ⟨.illegalCommand, by decide, rfl⟩

theorem engineTurn_running {w : CmdWord} (hreset : s.inReset = false) (hrunning : s.running = some w) :
    engineTurn s = complete (issue w s) := by simp [engineTurn, hreset, hrunning]

/-- Settles O41: every command that raises enters a listed error with its own word, which `encode` gives back, and an
illegal word enters IllegalCommand; completion then drops BUSY. -/
theorem errorEntryChangesOnlyTheErrorState : Obligations.ErrorEntryChangesOnlyTheErrorState := by
  unfold Obligations.ErrorEntryChangesOnlyTheErrorState
  intro s t w hreset hrunning hs hturn ht
  rw [engineTurn_running hreset hrunning] at hturn
  obtain ⟨u, hissue, rfl⟩ := complete_eq_next hturn
  obtain ⟨k, hk, rfl⟩ := issue_raises hissue hs ht
  exact ⟨k, hk, rfl⟩

/-! The error gate (R205) -/

/-- The gate lets CLRERR through, with or without an error pending. -/
theorem issue_clrerrWord (s : State) : issue clrerrWord s = .next s.clearError := by
  have hgate : s.gateDiscards clrerrWord = false := by simp [State.gateDiscards]
  exact (issue_legal hgate decode_clrerrWord).trans (exec_clrerr s)

/-- Settles O42: the gate discards every word but `clrerrWord`, which decodes to CLRERR. -/
theorem errorGateDiscardsCommands : Obligations.ErrorGateDiscardsCommands := by
  unfold Obligations.ErrorGateDiscardsCommands
  exact fun w s herr => ⟨fun hw => issue_discarded (gateDiscards_of_err herr hw), issue_clrerrWord s⟩

end Sys2Proof.Machine
end

section
/-! Reset (70_reset_and_hazards.md R230, R231): what each event does while reset is asserted, what its assertion and its
release do in any state, and the obligation settled by them. -/

namespace Sys2Proof.Machine

variable {s : State} {es : List Event}

/-! The edges of reset, whatever the engine is doing (R230, R231) -/

theorem step_assertReset (hevents : s.events = .assertReset :: es) :
    step s = .next ({ s with events := es }.takeReset) := by simp [step, advance, hevents]

theorem step_releaseReset (hevents : s.events = .releaseReset :: es) :
    step s = .next { s with events := es, inReset := false } := by simp [step, advance, hevents]

/-! Under reset no command and no host access has an effect (R230) -/

theorem engineTurn_inReset (hreset : s.inReset = true) : engineTurn s = .next s := by simp [engineTurn, hreset]

theorem step_access_inReset {a : HostAccess} (hreset : s.inReset = true) (hevents : s.events = .access a :: es) :
    step s = .next { s with events := es, response := none } := by simp [step, advance, hevents, hreset]

theorem step_engine_inReset (hreset : s.inReset = true) (hevents : s.events = .engine :: es) :
    step s = .next { s with events := es } := by
  have hturn : step s = engineTurn { s with events := es } := by simp [step, advance, hevents]
  exact hturn.trans (engineTurn_inReset hreset)

theorem step_noEvent_inReset (hreset : s.inReset = true) (hevents : s.events = []) : step s = .next s := by
  have hturn : step s = engineTurn s := by simp [step, advance, hevents]
  exact hturn.trans (engineTurn_inReset hreset)

/-- Settles O51: the assertion leaves `takeReset`, whose fields are those of the reset table, and under reset each event
has its rule above. -/
theorem resetDropsTheCommandInExecution : Obligations.ResetDropsTheCommandInExecution := by
  unfold Obligations.ResetDropsTheCommandInExecution
  refine ⟨fun s es hevents => ⟨_, step_assertReset hevents, ?table⟩, fun s hreset => ?underReset⟩
  case table =>
    simp [State.reset]
  case underReset =>
    exact ⟨fun _ _ => step_access_inReset hreset, fun _ => step_engine_inReset hreset, fun _ => step_releaseReset,
      step_noEvent_inReset hreset⟩

end Sys2Proof.Machine
end

section
/-! Decoding and encoding as inverses (30_encoding.md R82 to R89): the fields of the formats that earlier parts leave
out, the command that a row builds from the fields of its own word, the mnemonic of a row, and the four obligations
settled by them. -/

namespace Sys2Proof.Machine

open Sys2Proof.Claims Sys2Proof.Laws

/-! The operand fields of formats I and M (R82 to R84) -/

theorem extractLsb'_wordI_a (op : BitVec 6) (a b : Fin 16) (imm : Nat) :
    (wordI op a b imm).extractLsb' 22 4 = BitVec.ofNat 4 a.val := by
  apply BitVec.eq_of_getLsbD_eq
  intro i hi
  unfold wordI place
  interval_cases i <;> simp

theorem extractLsb'_wordI_b (op : BitVec 6) (a b : Fin 16) (imm : Nat) :
    (wordI op a b imm).extractLsb' 18 4 = BitVec.ofNat 4 b.val := by
  apply BitVec.eq_of_getLsbD_eq
  intro i hi
  unfold wordI place
  interval_cases i <;> simp

theorem extractLsb'_wordI_imm (op : BitVec 6) (a b : Fin 16) (imm : Nat) :
    (wordI op a b imm).extractLsb' 0 14 = BitVec.ofNat 14 imm := by
  apply BitVec.eq_of_getLsbD_eq
  intro i hi
  unfold wordI place
  interval_cases i <;> simp

theorem extractLsb'_wordM_a (op : BitVec 6) (a : Fin 16) (n blk : Nat) :
    (wordM op a n blk).extractLsb' 22 4 = BitVec.ofNat 4 a.val := by
  apply BitVec.eq_of_getLsbD_eq
  intro i hi
  unfold wordM place
  interval_cases i <;> simp

theorem fieldsOf_wordI_a (op : BitVec 6) (a b : Fin 16) (imm : Nat) : (fieldsOf (wordI op a b imm)).a = a := by
  rw [fieldsOf, extractLsb'_wordI_a, toFin_ofNat_val]

theorem fieldsOf_wordI_b (op : BitVec 6) (a b : Fin 16) (imm : Nat) : (fieldsOf (wordI op a b imm)).b = b := by
  rw [fieldsOf, extractLsb'_wordI_b, toFin_ofNat_val]

theorem fieldsOf_wordI_imm (op : BitVec 6) (a b : Fin 16) {imm : Nat} (himm : imm < 2 ^ 14) :
    (fieldsOf (wordI op a b imm)).imm = imm := by
  rw [fieldsOf, extractLsb'_wordI_imm, BitVec.toNat_ofNat, Nat.mod_eq_of_lt himm]

theorem fieldsOf_wordM_a (op : BitVec 6) (a : Fin 16) (n blk : Nat) : (fieldsOf (wordM op a n blk)).a = a := by
  rw [fieldsOf, extractLsb'_wordM_a, toFin_ofNat_val]

/-! The word of a command decodes to it (R89) -/

/-- Every command has a row, and its word agrees with the row's pattern under the row's mask. -/
theorem encodesItsRow (i : Instr) : EncodesItsRow.Statement i := by
  cases i with
  | nop => exact EncodesItsRow.nop
  | clrerr => exact EncodesItsRow.clrerr
  | fadd a b c => exact EncodesItsRow.fadd a b c
  | fmul a b c => exact EncodesItsRow.fmul a b c
  | fpow a b c => exact EncodesItsRow.fpow a b c
  | finv a b => exact EncodesItsRow.finv a b
  | fdiv a b c => exact EncodesItsRow.fdiv a b c
  | fcmp b c => exact EncodesItsRow.fcmp b c
  | fmov a b => exact EncodesItsRow.fmov a b
  | fli a imm => exact EncodesItsRow.fli a imm
  | fldb a blk => exact EncodesItsRow.fldb a blk
  | fstb a blk => exact EncodesItsRow.fstb a blk
  | fldi a blk => exact EncodesItsRow.fldi a blk
  | fsti a blk => exact EncodesItsRow.fsti a blk
  | padd a b c => exact EncodesItsRow.padd a b c
  | pmul a b c => exact EncodesItsRow.pmul a b c
  | pdiv a b c => exact EncodesItsRow.pdiv a b c
  | pmod a b c => exact EncodesItsRow.pmod a b c
  | pgcd a b c => exact EncodesItsRow.pgcd a b c
  | pmonic a b => exact EncodesItsRow.pmonic a b
  | pmov a b => exact EncodesItsRow.pmov a b
  | pdeg b => exact EncodesItsRow.pdeg b
  | psetc a b imm => exact EncodesItsRow.psetc a b imm
  | pgetc a b imm => exact EncodesItsRow.pgetc a b imm
  | pld a n blk => exact EncodesItsRow.pld a n blk
  | pst a blk => exact EncodesItsRow.pst a blk
  | ginit b c => exact EncodesItsRow.ginit b c
  | gad n blk => exact EncodesItsRow.gad n blk
  | gct n blk => exact EncodesItsRow.gct n blk
  | gfin => exact EncodesItsRow.gfin
  | gtag a => exact EncodesItsRow.gtag a
  | grd a => exact EncodesItsRow.grd a

/-- What the row of an opcode makes of some fields, none where the opcode is reserved. -/
def buildOf (op : Nat) (f : Fields) : Option Instr := (opRowOf op).map (fun r => r.build f)

/-- The row of a command's opcode rebuilds the command from the fields of its word: by the format of the word, every
operand is read where the encoder puts it, and a number that fits its field is read whole. -/
theorem buildOf_encode {i : Instr} (hi : i.wellFormed = true) :
    buildOf (opcodeOf (encode i)) (fieldsOf (encode i)) = some i := by
  cases i with
  | nop | clrerr | gfin =>
    rw [encode, opcodeOf_wordN]
    rfl
  | fadd | fmul | fpow | finv | fdiv | fcmp | fmov | padd | pmul | pdiv | pmod | pgcd | pmonic | pmov | pdeg | ginit
  | gtag | grd =>
    rw [encode, opcodeOf_wordR]
    simp [buildOf, opRowOf, opRows, opRowsField, opRowsPolyGhash, fieldsOf_wordR_a, fieldsOf_wordR_b, fieldsOf_wordR_c]
  | fli | psetc | pgetc =>
    have himm := of_decide_eq_true hi
    rw [encode, opcodeOf_wordI]
    simp [buildOf, opRowOf, opRows, opRowsField, opRowsPolyGhash, fieldsOf_wordI_a, fieldsOf_wordI_b,
      fieldsOf_wordI_imm _ _ _ himm]
  | fldb | fstb | fldi | fsti | pst =>
    have hblk := of_decide_eq_true hi
    rw [encode, opcodeOf_wordM]
    simp [buildOf, opRowOf, opRows, opRowsField, opRowsPolyGhash, fieldsOf_wordM_a, fieldsOf_wordM_blk _ _ _ hblk]
  | pld | gad | gct =>
    obtain ⟨hn, hblk⟩ := Bool.and_eq_true_iff.1 hi
    rw [encode, opcodeOf_wordM]
    simp [buildOf, opRowOf, opRows, opRowsField, opRowsPolyGhash, fieldsOf_wordM_a,
      fieldsOf_wordM_n _ _ _ (of_decide_eq_true hn), fieldsOf_wordM_blk _ _ _ (of_decide_eq_true hblk)]

theorem decode_encode {i : Instr} (hi : i.wellFormed = true) : decode (encode i) = .ok i := by
  obtain ⟨r, hrow, hfixed⟩ := encodesItsRow i
  have hbuild := buildOf_encode hi
  rw [buildOf, hrow, Option.map_some, Option.some.injEq] at hbuild
  exact decode_encode_of_build ⟨r, hrow, hfixed⟩ hrow hbuild

/-- Settles O1: every command has a row, and the row rebuilds it from the fields of its word. -/
theorem decodeOfEncodeIsTheCommand : Obligations.DecodeOfEncodeIsTheCommand := by
  unfold Obligations.DecodeOfEncodeIsTheCommand
  exact fun _ hi => decode_encode hi

/-! A legal word decodes to a well-formed command (R84) -/

/-- The numbers that a row takes from a word fit their fields, as every field is read with its own width. -/
theorem wellFormed_build_fieldsOf (w : CmdWord) : ∀ r ∈ opRows, (r.build (fieldsOf w)).wellFormed = true := by
  have himm : immFits (fieldsOf w).imm = true := decide_eq_true (w.extractLsb' 0 14).isLt
  have hn : countFits (fieldsOf w).n = true := decide_eq_true (w.extractLsb' 14 8).isLt
  have hblk : blkFits (fieldsOf w).blk = true := decide_eq_true (w.extractLsb' 0 14).isLt
  simp [opRows, opRowsField, opRowsPolyGhash, Instr.wellFormed, himm, hn, hblk]

theorem wellFormed_of_decode {w : CmdWord} {i : Instr} (h : decode w = .ok i) : i.wellFormed = true := by
  obtain ⟨r, hr, -, rfl⟩ := decode_eq_ok h
  exact wellFormed_build_fieldsOf w r hr

/-- Settles O2: a row takes its numbers from fields of their own width, and the encoder puts back every bit that the
row's mask leaves free. -/
theorem encodeOfDecodeIsTheWord : Obligations.EncodeOfDecodeIsTheWord := by
  unfold Obligations.EncodeOfDecodeIsTheWord
  exact fun _ _ h => ⟨wellFormed_of_decode h, encode_of_decode h⟩

/-! The printed rows (R85) -/

/-- The decoder's rows are the printed ones, whatever the fields hold. -/
theorem map_opRows_eq_opcodeMap (f : Fields) :
    opRows.map (fun r => ((asmForm (r.build f)).1, r.pattern, r.mask)) = opcodeMap := rfl

theorem opcodeMap_mnemonics_nodup : (opcodeMap.map (·.1)).Nodup := by decide

theorem opcodeMap_patterns_nodup : (opcodeMap.map (·.2.1)).Nodup := by decide

/-- Every mask holds the opcode field. -/
theorem opcode_field_of_mask : ∀ row ∈ opcodeMap, (row.2.2).extractLsb' 26 6 = BitVec.allOnes 6 := by decide

theorem opcodeOf_of_mask {row : String × CmdWord × CmdWord} (hrow : row ∈ opcodeMap) {w : CmdWord}
    (hw : w &&& row.2.2 = row.2.1) : opcodeOf w = opcodeOf row.2.1 := by
  rw [← hw, opcodeOf, opcodeOf, BitVec.extractLsb'_and, opcode_field_of_mask row hrow, BitVec.and_allOnes]

/-- A row of the decoder, as the mnemonic, match and mask that stand in the printed map. -/
theorem mem_opcodeMap_of_mem_opRows {r : OpRow} (hr : r ∈ opRows) (f : Fields) :
    ((asmForm (r.build f)).1, r.pattern, r.mask) ∈ opcodeMap :=
  map_opRows_eq_opcodeMap f ▸ List.mem_map_of_mem hr

/-- A word that agrees with a printed row decodes by the decoder's row of the same match, which is the only one. -/
theorem decode_of_row_match {row : String × CmdWord × CmdWord} (hrow : row ∈ opcodeMap) {w : CmdWord}
    (hw : w &&& row.2.2 = row.2.1) : ∃ i, decode w = .ok i ∧ (asmForm i).1 = row.1 := by
  obtain ⟨r, hr, hpattern, hmask⟩ := exists_opRowOf_of_mem_opcodeMap hrow
  have hmem := mem_opcodeMap_of_mem_opRows (List.mem_of_find?_eq_some hr) (fieldsOf w)
  have hsame := List.inj_on_of_nodup_map opcodeMap_patterns_nodup hmem hrow hpattern
  have hfixed : w &&& r.mask = r.pattern := by rw [hmask, hpattern, hw]
  refine ⟨r.build (fieldsOf w), ?_, congrArg (·.1) hsame⟩
  simp [decode, opcodeOf_of_mask hrow hw, hr, hfixed]

/-- A command of a printed row's mnemonic was decoded by the decoder's row of that mnemonic, which is the only one. -/
theorem row_match_of_decode {row : String × CmdWord × CmdWord} (hrow : row ∈ opcodeMap) {w : CmdWord} {i : Instr}
    (hdecode : decode w = .ok i) (hi : (asmForm i).1 = row.1) : w &&& row.2.2 = row.2.1 := by
  obtain ⟨r, hr, hfixed, rfl⟩ := decode_eq_ok hdecode
  have hmem := mem_opcodeMap_of_mem_opRows hr (fieldsOf w)
  rwa [← List.inj_on_of_nodup_map opcodeMap_mnemonics_nodup hmem hrow hi]

/-- Settles O3: the decoder's rows are the printed ones, no two of which share a mnemonic or a match. -/
theorem wordsOfARowAreThoseItsMaskSelects : Obligations.WordsOfARowAreThoseItsMaskSelects := by
  unfold Obligations.WordsOfARowAreThoseItsMaskSelects
  exact fun _ hrow _ => ⟨decode_of_row_match hrow, fun ⟨_, hdecode, hi⟩ => row_match_of_decode hrow hdecode hi⟩

/-! Sample words (95_test_vectors.md section 4) -/

/-- Settles O5: each of the eleven words is decoded by evaluation. -/
theorem sampleWordsDecodeAsTheVectorsSay : Obligations.SampleWordsDecodeAsTheVectorsSay := by
  unfold Obligations.SampleWordsDecodeAsTheVectorsSay
  decide

end Sys2Proof.Machine
end

section
/-! The field laws (40_field.md R117, R118, R126): the ring laws, drawn from the quotient ring that the elements stand
for; that the reduction polynomial is irreducible, by Rabin's test on squarings that the kernel evaluates; inverses, and
the three obligations settled by them. -/

namespace Sys2Proof.Machine

open Sys2Proof.Claims

/-! The ring laws (R126) -/

@[simp] theorem residue_xor (a b : Elem) : residue (a ^^^ b) = residue a + residue b := by
  rw [residue, BitVec.toNat_xor, toGF2_xor, map_add, residue, residue]

theorem gfmul_comm (a b : Elem) : gfmul a b = gfmul b a :=
  residue_injective (by rw [residue_gfmul, residue_gfmul, mul_comm])

theorem gfmul_assoc (a b c : Elem) : gfmul a (gfmul b c) = gfmul (gfmul a b) c :=
  residue_injective (by simp only [residue_gfmul, mul_assoc])

theorem gfmul_xor (a b c : Elem) : gfmul a (b ^^^ c) = gfmul a b ^^^ gfmul a c :=
  residue_injective (by simp only [residue_gfmul, residue_xor, mul_add])

@[simp] theorem gfmul_one (a : Elem) : gfmul a 1 = a :=
  residue_injective (by rw [residue_gfmul, residue_one, mul_one])

/-- Settles O14: residue carries XOR and gfmul to the sum and product of a commutative ring, and is injective. -/
theorem fieldRingLaws : Obligations.FieldRingLaws := by
  unfold Obligations.FieldRingLaws
  exact fun a b c => ⟨gfmul_comm a b, gfmul_assoc a b c, gfmul_xor a b c, gfmul_one a, gfmul_zero_right a⟩

/-! Squaring modulo the reduction polynomial, by operations on whole numbers that the kernel evaluates fast -/

/-- The polynomial of a number, from its bits from k up and its bits below k. -/
theorem toGF2_split (v k : Nat) : toGF2 v = toGF2 (v >>> k) * Polynomial.X ^ k + toGF2 (v % 2 ^ k) := by
  have hsplit : v = (v >>> k) <<< k ^^^ v % 2 ^ k := by
    apply Nat.eq_of_testBit_eq
    intro i
    rw [Nat.testBit_xor, Nat.testBit_shiftLeft, Nat.testBit_shiftRight, Nat.testBit_mod_two_pow]
    by_cases hi : k ≤ i
    · simp [hi, not_lt.2 hi]
    · simp [hi, not_le.1 hi]
  rw [← toGF2_shiftLeft, ← toGF2_xor, ← hsplit]

/-- The number whose bit 2i is bit i of v, for the low n bits of v. -/
def spreadBits : (n v : Nat) → Nat
  | 0, _ => 0
  | n + 1, v => spreadBits n (v >>> 1) <<< 2 ^^^ v % 2

/-- Squaring over GF(2) moves the coefficient of x^i to x^(2i). -/
theorem toGF2_spreadBits {n v : Nat} (hv : v < 2 ^ n) : toGF2 (spreadBits n v) = toGF2 v ^ 2 := by
  induction n generalizing v with
  | zero =>
    obtain rfl : v = 0 := by simpa using hv
    simp [spreadBits]
  | succ n ih =>
    have hhalf : v >>> 1 < 2 ^ n := by
      rw [Nat.shiftRight_eq_div_pow]
      omega
    have hbit : toGF2 (v % 2) ^ 2 = toGF2 (v % 2) := by
      obtain h | h := Nat.mod_two_eq_zero_or_one v <;> simp [h]
    have hsplit := toGF2_split v 1
    rw [pow_one, pow_one] at hsplit
    rw [spreadBits, toGF2_xor, toGF2_shiftLeft, ih hhalf, hsplit, CharTwo.add_sq, hbit, mul_pow]

/-- The carry-less product with the reduction polynomial. -/
def timesModulus (h : Nat) : Nat := h <<< 128 ^^^ h <<< 7 ^^^ h <<< 2 ^^^ h <<< 1 ^^^ h

theorem toGF2_timesModulus (h : Nat) : toGF2 (timesModulus h) = toGF2 h * fieldModulus := by
  rw [timesModulus, fieldModulus_eq]
  unfold modulusGF2
  simp only [toGF2_xor, toGF2_shiftLeft, mul_add, pow_one, mul_one]

/-- The number with the multiple of the reduction polynomial added that clears its bits from 128 up. What the multiple
itself brings in there takes a second fold. -/
def foldHigh (v : Nat) : Nat := v ^^^ timesModulus (v >>> 128)

/-- A number of the class of v squared (`classOf_squareMod`), folded so often that it is short again. -/
def squareMod (v : Nat) : Nat := foldHigh (foldHigh (spreadBits (bitlen v) v))

/-- The class of a number in GF(2)[x] modulo the reduction polynomial; `residue` is that of an element's integer
form. -/
noncomputable def classOf (v : Nat) : AdjoinRoot fieldModulus := AdjoinRoot.mk fieldModulus (toGF2 v)

theorem classOf_foldHigh (v : Nat) : classOf (foldHigh v) = classOf v := by
  rw [classOf, foldHigh, toGF2_xor, toGF2_timesModulus, map_add, map_mul, AdjoinRoot.mk_self, mul_zero, add_zero,
    classOf]

theorem classOf_squareMod (v : Nat) : classOf (squareMod v) = classOf v ^ 2 := by
  rw [squareMod, classOf_foldHigh, classOf_foldHigh, classOf, toGF2_spreadBits (bitlen_le_iff.1 le_rfl), map_pow,
    classOf]

theorem classOf_squareMod_iterate (n v : Nat) : classOf (squareMod^[n] v) = classOf v ^ 2 ^ n := by
  induction n with
  | zero => simp
  | succ n ih => rw [Function.iterate_succ_apply', classOf_squareMod, ih, ← pow_mul, pow_succ]

theorem classOf_zero : classOf 0 = 0 := by rw [classOf, toGF2_zero, map_zero]

theorem classOf_one : classOf 1 = 1 := by rw [classOf, toGF2_one, map_one]

/-- The class of x. -/
theorem classOf_two : classOf 2 = AdjoinRoot.mk fieldModulus Polynomial.X := by
  have hx : toGF2 2 = Polynomial.X := (toGF2_two_pow 1).trans (pow_one _)
  rw [classOf, hx]

theorem classOf_xor (u v : Nat) : classOf (u ^^^ v) = classOf u + classOf v := by
  rw [classOf, toGF2_xor, map_add, classOf, classOf]

theorem classOf_reduce_clmul (u v : Nat) : classOf (reduce (clmul u v)) = classOf u * classOf v := by
  rw [classOf, AdjoinRoot.mk_eq_mk.2 (fieldModulus_dvd_reduce_sub _), toGF2_clmul, map_mul, classOf, classOf]

/-! Rabin's test of the reduction polynomial (00_scope.md R2): modulo it x^(2^128) is x, and x^(2^64) - x is a unit -/

/-- x^(2^64). -/
theorem squareMod_iterate_64_two : squareMod^[64] 2 = 0x61651fea6b5832b944e598a795a299f6 := by decide +kernel

theorem squareMod_iterate_128_two : squareMod^[128] 2 = 2 := by
  rw [Function.iterate_add_apply squareMod 64 64, squareMod_iterate_64_two]
  decide +kernel

/-- The inverse of x^(2^64) - x, found by computation. -/
theorem reduce_clmul_certificate :
    reduce (clmul (squareMod^[64] 2 ^^^ 2) 0x9e4af928ddbc838a41a8cafd2c95b018) = 1 := by
  rw [squareMod_iterate_64_two]
  decide +kernel

theorem classOf_squareMod_iterate_two_xor (n : Nat) :
    classOf (squareMod^[n] 2 ^^^ 2) = AdjoinRoot.mk fieldModulus (Polynomial.X ^ 2 ^ n - Polynomial.X) := by
  have htwo : classOf 2 + classOf 2 = 0 := by rw [← classOf_xor, Nat.xor_self, classOf_zero]
  rw [classOf_xor, classOf_squareMod_iterate, map_sub, map_pow, ← classOf_two, eq_sub_iff_add_eq, add_assoc, htwo,
    add_zero]

theorem fieldModulus_dvd_of_iterate {n : Nat} (h : squareMod^[n] 2 = 2) :
    fieldModulus ∣ Polynomial.X ^ 2 ^ n - Polynomial.X := by
  rw [← AdjoinRoot.mk_eq_zero, ← classOf_squareMod_iterate_two_xor, h, Nat.xor_self, classOf_zero]

theorem isUnit_of_dvd_of_certificate {n u : Nat} (h : reduce (clmul (squareMod^[n] 2 ^^^ 2) u) = 1)
    {g : Polynomial (ZMod 2)} (hg : g ∣ fieldModulus) (hn : g ∣ Polynomial.X ^ 2 ^ n - Polynomial.X) : IsUnit g := by
  have hone : AdjoinRoot.mk fieldModulus ((Polynomial.X ^ 2 ^ n - Polynomial.X) * toGF2 u) =
      AdjoinRoot.mk fieldModulus 1 := by
    rw [map_mul, ← classOf_squareMod_iterate_two_xor, ← classOf, ← classOf_reduce_clmul, h, classOf_one, map_one]
  have hsub := hg.trans (AdjoinRoot.mk_eq_mk.1 hone)
  exact isUnit_of_dvd_one ((dvd_sub_right (hn.mul_right _)).1 hsub)

theorem natDegree_fieldModulus : fieldModulus.natDegree = 128 :=
  Polynomial.natDegree_eq_of_degree_eq_some degree_fieldModulus

/-- The degree of an irreducible factor divides 128 and not 64. -/
theorem natDegree_of_irreducible_dvd {g : Polynomial (ZMod 2)} (hirr : Irreducible g) (hg : g ∣ fieldModulus) :
    g.natDegree = 128 := by
  have hdvd : ∀ n, g.natDegree ∣ n ↔ g ∣ Polynomial.X ^ 2 ^ n - Polynomial.X := by
    simpa using fun n => hirr.natDegree_dvd_iff_dvd_X_pow_card_pow_sub_X (n := n)
  have h128 : g.natDegree ∣ 128 :=
    (hdvd 128).2 (hg.trans (fieldModulus_dvd_of_iterate squareMod_iterate_128_two))
  have h64 : ¬ g.natDegree ∣ 64 := fun h =>
    hirr.not_isUnit (isUnit_of_dvd_of_certificate reduce_clmul_certificate hg ((hdvd 64).1 h))
  obtain ⟨k, hk, hdegree⟩ := (Nat.dvd_prime_pow Nat.prime_two (m := 7)).1 h128
  obtain rfl | hk := hk.eq_or_lt
  · exact hdegree
  · exact absurd (hdegree ▸ pow_dvd_pow 2 (Nat.le_of_lt_succ hk)) h64

/-- An irreducible factor has the whole degree, so the reduction polynomial is a unit times it. -/
theorem irreducible_fieldModulus : Irreducible fieldModulus := by
  have hnotUnit : ¬ IsUnit fieldModulus :=
    Polynomial.not_isUnit_of_natDegree_pos _ (natDegree_fieldModulus ▸ by decide)
  obtain ⟨g, hirr, hg⟩ := WfDvdMonoid.exists_irreducible_factor hnotUnit monic_fieldModulus.ne_zero
  have hdegree : fieldModulus.natDegree ≤ g.natDegree := by
    rw [natDegree_fieldModulus, natDegree_of_irreducible_dvd hirr hg]
  exact (Polynomial.associated_of_dvd_of_natDegree_le hg monic_fieldModulus.ne_zero hdegree).irreducible hirr

/-! Inverses (R117, R126) -/

/-- The residues are a field of 2^128 elements, so a nonzero one has order dividing 2^128 - 1. -/
theorem pow_eq_one_of_ne_zero {r : AdjoinRoot fieldModulus} (hr : r ≠ 0) : r ^ (2 ^ 128 - 1) = 1 := by
  have : Fact (Irreducible fieldModulus) := ⟨irreducible_fieldModulus⟩
  have : Module.Finite (ZMod 2) (AdjoinRoot fieldModulus) := monic_fieldModulus.finite_adjoinRoot
  have : Finite (AdjoinRoot fieldModulus) := Module.finite_of_finite (ZMod 2)
  let := Fintype.ofFinite (AdjoinRoot fieldModulus)
  have hcard : Fintype.card (AdjoinRoot fieldModulus) = 2 ^ 128 := by
    rw [← Nat.card_eq_fintype_card, Module.natCard_eq_pow_finrank (K := ZMod 2), Nat.card_zmod,
      ← natDegree_fieldModulus]
    exact congrArg (2 ^ ·) finrank_quotient_span_eq_natDegree
  rw [← hcard]
  exact FiniteField.pow_card_sub_one_eq_one r hr

theorem residue_ne_zero {a : Elem} (ha : a ≠ 0) : residue a ≠ 0 := fun h =>
  ha (residue_injective (h.trans residue_zero.symm))

theorem gfmul_gfinv {a : Elem} (ha : a ≠ 0) : gfmul a (gfinv a) = 1 := by
  have hexp : invExponent.toNat + 1 = 2 ^ 128 - 1 := by decide
  apply residue_injective
  rw [residue_gfmul, gfinv, residue_gfpow, ← pow_succ', hexp, pow_eq_one_of_ne_zero (residue_ne_zero ha), residue_one]

theorem eq_zero_or_eq_zero_of_gfmul {a b : Elem} (h : gfmul a b = 0) : a = 0 ∨ b = 0 := by
  by_cases ha : a = 0
  · exact .inl ha
  · right
    calc b = gfmul (gfmul (gfinv a) a) b := by rw [gfmul_comm _ a, gfmul_gfinv ha, gfmul_comm, gfmul_one]
      _ = 0 := by rw [← gfmul_assoc, h, gfmul_zero_right]

/-- Settles O15: the residues are a field, as the reduction polynomial is irreducible, and have order 2^128. -/
theorem nonzeroElementTimesItsInverseIsOne : Obligations.NonzeroElementTimesItsInverseIsOne := by
  unfold Obligations.NonzeroElementTimesItsInverseIsOne
  exact ⟨fun _ ha => gfmul_gfinv ha, fun _ _ h => eq_zero_or_eq_zero_of_gfmul h⟩

/-! FINV and FDIV (R117, R118) -/

theorem exec_finv_of_zero {s : State} {b : EReg} (h : s.readE b = 0) (a : EReg) :
    exec (.finv a b) s = raise .divisionByZero (.finv a b) s := if_pos h

theorem exec_finv_of_ne_zero {s : State} {b : EReg} (h : s.readE b ≠ 0) (a : EReg) :
    exec (.finv a b) s = .next (s.writeE a (gfinv (s.readE b))) := if_neg h

theorem exec_fdiv_of_zero {s : State} {c : EReg} (h : s.readE c = 0) (a b : EReg) :
    exec (.fdiv a b c) s = raise .divisionByZero (.fdiv a b c) s := if_pos h

theorem exec_fdiv_of_ne_zero {s : State} {c : EReg} (h : s.readE c ≠ 0) (a b : EReg) :
    exec (.fdiv a b c) s = .next (s.writeE a (gfmul (s.readE b) (gfinv (s.readE c)))) := if_neg h

/-- Settles O21: each is a check for zero before one register write. -/
theorem finvAndFdivDivideOrRaise : Obligations.FinvAndFdivDivideOrRaise := by
  unfold Obligations.FinvAndFdivDivideOrRaise
  refine fun a b c s => ⟨?finv, ?fdiv⟩
  case finv =>
    split
    case isTrue hzero =>
      rw [exec_finv_of_zero hzero]
      exact failsWith_raise _ _ s
    case isFalse hzero =>
      rw [exec_finv_of_ne_zero hzero]
      exact writesE_writeE s a _
  case fdiv =>
    split
    case isTrue hzero =>
      rw [exec_fdiv_of_zero hzero]
      exact failsWith_raise _ _ s
    case isFalse hzero =>
      rw [exec_fdiv_of_ne_zero hzero]
      exact writesE_writeE s a _

end Sys2Proof.Machine
end

section
/-! Long division and the GCD (41_polynomial.md R143 to R145, R148 to R151, R158): coefficient lists as polynomials over
the field, what each pass of the two loops keeps, and the four obligations settled by it. -/

namespace Sys2Proof.Machine

open Sys2Proof.Claims

/-! Canonical lists (00_scope.md R14) -/

theorem lead_eq_coeff (p : Poly) : lead p = coeff p (p.length - 1) := by
  rw [lead, coeff, List.getLastD_eq_getLast?, List.getLast?_eq_getElem?, List.getD_eq_getElem?_getD]

theorem canonical_iff (p : Poly) : canonical p = true ↔ p.length = 1 ∨ 1 < p.length ∧ lead p ≠ 0 := by
  simp [canonical]

theorem length_pos_of_canonical {p : Poly} (hp : canonical p = true) : 0 < p.length := by
  obtain hone | ⟨hlong, -⟩ := (canonical_iff p).1 hp <;> omega

theorem lead_ne_zero {p : Poly} (hp : canonical p = true) (hzero : p ≠ [0]) : lead p ≠ 0 := by
  obtain hone | ⟨-, hlead⟩ := (canonical_iff p).1 hp
  · obtain ⟨c, rfl⟩ := List.length_eq_one_iff.1 hone
    intro hc
    exact hzero (congrArg (fun x => [x]) hc)
  · exact hlead

/-- A canonical list is no longer than its nonzero coefficients reach. -/
theorem length_le_of_coeff {p : Poly} (hp : canonical p = true) {n : Nat} (h : ∀ j, n ≤ j → coeff p j = 0) :
    p.length ≤ max n 1 := by
  obtain hone | ⟨hlong, hlead⟩ := (canonical_iff p).1 hp
  · omega
  · rw [lead_eq_coeff] at hlead
    have hlast : ¬ n ≤ p.length - 1 := mt (h _) hlead
    omega

/-- A canonical list is known by its coefficients. -/
theorem canonical_ext {p q : Poly} (hp : canonical p = true) (hq : canonical q = true)
    (h : ∀ j, coeff p j = coeff q j) : p = q := by
  have hpq := length_le_of_coeff hp (n := q.length) fun j hj => (h j).trans (coeff_of_length_le hj)
  have hqp := length_le_of_coeff hq (n := p.length) fun j hj => (h j).symm.trans (coeff_of_length_le hj)
  have hppos := length_pos_of_canonical hp
  have hqpos := length_pos_of_canonical hq
  refine List.ext_getElem (by omega) fun j hjp hjq => ?_
  simpa [coeff_eq_getElem_or_zero, hjp, hjq] using h j

theorem canonical_zero : canonical [0] = true := rfl

theorem coeff_map {f : Elem → Elem} (hf : f 0 = 0) (p : Poly) (j : Nat) : coeff (p.map f) j = f (coeff p j) := by
  rw [coeff_eq_getElem_or_zero, coeff_eq_getElem_or_zero]
  by_cases hj : j < p.length
  · simp [hj]
  · simpa [hj] using hf.symm

@[simp] theorem residue_ofNat_zero : residue 0#128 = 0 := residue_zero

/-! Lists as polynomials over the field (00_scope.md R15) -/

/-- The polynomial over the field whose coefficients are those of the list. -/
noncomputable def asPoly (p : List Elem) : Polynomial (AdjoinRoot fieldModulus) :=
  ∑ i ∈ Finset.range p.length, Polynomial.monomial i (residue (coeff p i))

@[simp] theorem coeff_asPoly (p : List Elem) (j : Nat) : (asPoly p).coeff j = residue (coeff p j) := by
  simp only [asPoly, Polynomial.finsetSum_coeff, Polynomial.coeff_monomial, Finset.sum_ite_eq', Finset.mem_range]
  split
  case isTrue => rfl
  case isFalse hj => rw [coeff_of_length_le (not_lt.1 hj), residue_zero]

theorem asPoly_strip (l : List Elem) : asPoly (strip l) = asPoly l := by
  ext j
  simp

theorem asPoly_injOn {p q : Poly} (hp : canonical p = true) (hq : canonical q = true) (h : asPoly p = asPoly q) :
    p = q := by
  refine canonical_ext hp hq fun j => residue_injective ?_
  rw [← coeff_asPoly, h, coeff_asPoly]

theorem asPoly_zero : asPoly [0] = 0 := by
  ext j
  cases j <;> simp [coeff]

theorem asPoly_replicate_zero (n : Nat) : asPoly (List.replicate n 0) = 0 := by
  ext j
  rw [coeff_asPoly, Polynomial.coeff_zero]
  exact (congrArg residue (coeff_append_replicate_zero [] n j)).trans residue_zero

theorem asPoly_padd (p q : Poly) : asPoly (padd p q) = asPoly p + asPoly q := by
  ext j
  simp [coeff_padd]

theorem residue_xorAll (l : List Elem) : residue (xorAll l) = (l.map residue).sum := by
  induction l with
  | nil => simp
  | cons x l ih => rw [xorAll_cons, residue_xor, ih, List.map_cons, List.sum_cons]

theorem asPoly_pmul (p q : Poly) : asPoly (pmul p q) = asPoly p * asPoly q := by
  ext k
  rw [coeff_asPoly, coeff_pmul, convCoeff_eq_xorAll, residue_xorAll, Polynomial.coeff_mul,
    Finset.Nat.sum_antidiagonal_eq_sum_range_succ (fun i j => (asPoly p).coeff i * (asPoly q).coeff j),
    List.map_map]
  simp [Finset.sum, Multiset.range, Function.comp_def]

theorem degree_asPoly_lt (p : List Elem) : (asPoly p).degree < p.length := by
  rw [Polynomial.degree_lt_iff_coeff_zero]
  intro j hj
  rw [coeff_asPoly, coeff_of_length_le hj, residue_zero]

theorem degree_asPoly {p : Poly} (hp : canonical p = true) (hzero : p ≠ [0]) :
    (asPoly p).degree = ((p.length - 1 : Nat) : WithBot Nat) := by
  have hpos := length_pos_of_canonical hp
  refine Polynomial.degree_eq_of_le_of_coeff_ne_zero (Polynomial.degree_le_iff_coeff_zero _ _ |>.2 fun j hj => ?_) ?_
  · have hj : p.length - 1 < j := by exact_mod_cast hj
    rw [coeff_asPoly, coeff_of_length_le (by omega), residue_zero]
  · rw [coeff_asPoly, ← lead_eq_coeff]
    exact residue_ne_zero (lead_ne_zero hp hzero)

theorem coeff_shiftedMultiple (k : Nat) (t : Elem) (d : Poly) (j : Nat) :
    coeff (shiftedMultiple k t d) j = if k ≤ j then gfmul t (coeff d (j - k)) else 0 := by
  rw [← coeff_map (gfmul_zero_right t) d, shiftedMultiple, coeff]
  split
  case isTrue hj => rw [List.getD_append_right _ _ _ _ (by simpa using hj), List.length_replicate, coeff]
  case isFalse hj =>
    rw [List.getD_append _ _ _ _ (by simpa using hj), List.getD_replicate _ (not_le.1 hj)]

theorem asPoly_shiftedMultiple (k : Nat) (t : Elem) (d : Poly) :
    asPoly (shiftedMultiple k t d) = Polynomial.monomial k (residue t) * asPoly d := by
  ext j
  rw [coeff_asPoly, coeff_shiftedMultiple, ← Polynomial.C_mul_X_pow_eq_monomial, mul_assoc, mul_comm (_ ^ k),
    Polynomial.coeff_C_mul, Polynomial.coeff_mul_X_pow', coeff_asPoly]
  split
  case isTrue => rw [residue_gfmul]
  case isFalse => rw [residue_zero, mul_zero]

theorem asPoly_set {q : Poly} {k : Nat} (hk : k < q.length) (hfree : coeff q k = 0) (v : Elem) :
    asPoly (q.set k v) = asPoly q + Polynomial.monomial k (residue v) := by
  ext j
  rw [coeff_asPoly, coeff_set hk, Polynomial.coeff_add, coeff_asPoly, Polynomial.coeff_monomial]
  by_cases hj : k = j
  · subst hj
    simp [hfree]
  · simp [hj, Ne.symm hj]

/-- The field has characteristic 2. -/
theorem monomial_residue_add_self (k : Nat) (t : Elem) :
    Polynomial.monomial k (residue t) + Polynomial.monomial k (residue t) = 0 := by
  rw [← map_add, ← residue_xor, BitVec.xor_self]
  exact (congrArg _ residue_zero).trans (map_zero _)

/-! Long division (R143) -/

/-- What holds before each pass of long division by d, with at most `fuel` passes left: the remainder is canonical and,
unless it is zero, the passes suffice, the next coefficient of the quotient has a place, and no place up to it is
taken. -/
structure DivisionReady (d : Poly) (fuel : Nat) (q r : Poly) : Prop where
  canonical : canonical r = true
  passes : r ≠ [0] → r.length ≤ fuel
  place : r ≠ [0] → r.length < d.length + q.length
  free : r ≠ [0] → ∀ j, j + d.length ≤ r.length → coeff q j = 0

/-- The remainder after a pass. -/
def passRemainder (d r : Poly) : Poly :=
  padd r (shiftedMultiple (r.length - d.length) (gfmul (lead r) (gfinv (lead d))) d)

/-- The quotient after a pass. -/
def passQuotient (d q r : Poly) : Poly := q.set (r.length - d.length) (gfmul (lead r) (gfinv (lead d)))

theorem pdivLoop_of_short {d : Poly} {inv : Elem} {fuel : Nat} {q r : Poly} (h : r = [0] ∨ r.length < d.length) :
    pdivLoop d inv fuel q r = (q, r) := by
  cases fuel with
  | zero => rfl
  | succ fuel =>
    rw [← isZero_iff] at h
    simp [pdivLoop, h]

theorem pdivLoop_of_long {d r : Poly} (hr : r ≠ [0]) (hlen : d.length ≤ r.length) (fuel : Nat) (q : Poly) :
    pdivLoop d (gfinv (lead d)) (fuel + 1) q r =
      pdivLoop d (gfinv (lead d)) fuel (passQuotient d q r) (passRemainder d r) := by
  have hlong : ¬ (isZero r || decide (r.length < d.length)) = true := by
    simpa [isZero] using And.intro hr hlen
  rw [pdivLoop, if_neg hlong, passQuotient, passRemainder]

section

variable {d : Poly} (hd : canonical d = true) (hd0 : d ≠ [0])

include hd hd0

/-- A pass cancels the leading coefficient. -/
theorem coeff_passRemainder {r : Poly} (hlen : d.length ≤ r.length) {j : Nat} (hj : r.length - 1 ≤ j) :
    coeff (passRemainder d r) j = 0 := by
  have hpos := length_pos_of_canonical hd
  rw [passRemainder, coeff_padd, coeff_shiftedMultiple, if_pos (by omega)]
  obtain rfl | hj := hj.eq_or_lt
  · have hlast : r.length - 1 - (r.length - d.length) = d.length - 1 := by omega
    rw [hlast, ← lead_eq_coeff, ← lead_eq_coeff, ← gfmul_assoc, gfmul_comm (gfinv _),
      gfmul_gfinv (lead_ne_zero hd hd0), gfmul_one]
    exact BitVec.xor_self
  · rw [coeff_of_length_le (p := r) (by omega), coeff_of_length_le (p := d) (by omega), gfmul_zero_right]
    rfl

theorem passRemainder_length_le {r : Poly} (hlen : d.length ≤ r.length) :
    (passRemainder d r).length ≤ max (r.length - 1) 1 :=
  length_le_of_coeff (canonical_strip _) fun _ hj => coeff_passRemainder hd hd0 hlen hj

/-- A pass shortens the remainder or makes it zero. -/
theorem passRemainder_length_lt {r : Poly} (hlen : d.length ≤ r.length) (hr : passRemainder d r ≠ [0]) :
    (passRemainder d r).length < r.length := by
  have hle := passRemainder_length_le hd hd0 hlen
  have hne : r.length ≠ 1 := fun hone => hr (canonical_ext (canonical_strip _) canonical_zero fun j => by
    rw [coeff_passRemainder hd hd0 hlen (by omega)]
    cases j <;> rfl)
  have hpos := length_pos_of_canonical hd
  omega

theorem divisionReady_pass {fuel : Nat} {q r : Poly} (h : DivisionReady d (fuel + 1) q r) (hr : r ≠ [0])
    (hlen : d.length ≤ r.length) : DivisionReady d fuel (passQuotient d q r) (passRemainder d r) := by
  have hplace := h.place hr
  have hpasses := h.passes hr
  have hshort := passRemainder_length_lt hd hd0 hlen (r := r)
  refine ⟨canonical_strip _, fun hr' => ?passes, fun hr' => ?place, fun hr' j hj => ?free⟩
  case passes =>
    have := hshort hr'
    omega
  case place =>
    have := hshort hr'
    rw [passQuotient, List.length_set]
    omega
  case free =>
    have := hshort hr'
    have hother : j ≠ r.length - d.length := by omega
    rw [passQuotient, coeff_set (by omega), if_neg hother]
    exact h.free hr j (by omega)

omit hd hd0 in
/-- A pass moves a multiple of the divisor from the remainder to the quotient. -/
theorem pass_identity {fuel : Nat} {q r : Poly} (h : DivisionReady d fuel q r) (hr : r ≠ [0])
    (hlen : d.length ≤ r.length) :
    asPoly (passQuotient d q r) * asPoly d + asPoly (passRemainder d r) = asPoly q * asPoly d + asPoly r := by
  have hplace := h.place hr
  have hfree := h.free hr (r.length - d.length) (by omega)
  have hcancel := monomial_residue_add_self (r.length - d.length) (gfmul (lead r) (gfinv (lead d)))
  rw [passQuotient, passRemainder, asPoly_set (by omega) hfree, asPoly_padd, asPoly_shiftedMultiple]
  linear_combination asPoly d * hcancel

/-- The passes keep quotient * divisor + remainder and end with a remainder that is zero or shorter than the divisor. -/
theorem pdivLoop_spec {fuel : Nat} {q r : Poly} (h : DivisionReady d fuel q r) :
    let out := pdivLoop d (gfinv (lead d)) fuel q r
    asPoly out.1 * asPoly d + asPoly out.2 = asPoly q * asPoly d + asPoly r ∧ canonical out.2 = true ∧
      (out.2 = [0] ∨ out.2.length < d.length) ∧ out.1.length = q.length ∧ out.2.length ≤ r.length := by
  induction fuel generalizing q r with
  | zero =>
    have hr : r = [0] := by
      by_contra hr
      exact absurd (h.passes hr) (not_le.2 (length_pos_of_canonical h.canonical))
    exact ⟨rfl, h.canonical, .inl hr, rfl, le_rfl⟩
  | succ fuel ih =>
    by_cases hend : r = [0] ∨ r.length < d.length
    · rw [pdivLoop_of_short hend]
      exact ⟨rfl, h.canonical, hend, rfl, le_rfl⟩
    · obtain ⟨hr, hlen⟩ := not_or.1 hend
      have hlen := not_lt.1 hlen
      have hpos := length_pos_of_canonical h.canonical
      have hshort := passRemainder_length_le hd hd0 hlen
      obtain ⟨hidentity, hcanonical, hdone, hq, hr'⟩ := ih (divisionReady_pass hd hd0 h hr hlen)
      rw [pdivLoop_of_long hr hlen]
      have hlast := hr'.trans hshort
      exact ⟨hidentity.trans (pass_identity h hr hlen), hcanonical, hdone, hq.trans List.length_set, by omega⟩

omit hd0 in
theorem divisionReady_start {u : Poly} (hu : canonical u = true) :
    DivisionReady d u.length (List.replicate (max (u.length + 1 - d.length) 1) 0) u where
  canonical := hu
  passes _ := le_rfl
  place _ := by
    have hpos := length_pos_of_canonical hd
    rw [List.length_replicate]
    omega
  free _ j _ := coeff_append_replicate_zero [] _ j

/-- What long division answers (R143, R158). -/
theorem pdivmod_spec {u : Poly} (hu : canonical u = true) :
    asPoly (pdivmod u d).1 * asPoly d + asPoly (pdivmod u d).2 = asPoly u ∧ canonical (pdivmod u d).2 = true ∧
      ((pdivmod u d).2 = [0] ∨ (pdivmod u d).2.length < d.length) ∧ (pdivmod u d).1.length ≤ u.length ∧
      (pdivmod u d).2.length ≤ u.length := by
  obtain ⟨hidentity, hcanonical, hdone, hq, hr⟩ := pdivLoop_spec hd hd0 (divisionReady_start hd hu)
  have hpos := length_pos_of_canonical hd
  have hupos := length_pos_of_canonical hu
  rw [asPoly_replicate_zero, zero_mul, zero_add] at hidentity
  rw [List.length_replicate] at hq
  refine ⟨?identity, hcanonical, hdone, ?quotient, hr⟩
  case identity =>
    rw [pdivmod, asPoly_strip]
    exact hidentity
  case quotient =>
    refine (strip_length_le _).trans (max_le ?_ hupos)
    rw [hq]
    omega

theorem canonical_pdivmod_snd {u : Poly} (hu : canonical u = true) : canonical (pdivmod u d).2 = true := by
  obtain ⟨-, hcanonical, -⟩ := pdivmod_spec hd hd0 hu
  exact hcanonical

/-- The remainder is zero exactly when the divisor divides. -/
theorem pdivmod_snd_eq_zero_iff {u : Poly} (hu : canonical u = true) :
    (pdivmod u d).2 = [0] ↔ asPoly d ∣ asPoly u := by
  have hdomain := AdjoinRoot.isDomain_of_prime irreducible_fieldModulus.prime
  obtain ⟨hidentity, hcanonical, hdone, -⟩ := pdivmod_spec hd hd0 hu
  have hdvd : asPoly d ∣ asPoly u ↔ asPoly d ∣ asPoly (pdivmod u d).2 := by
    rw [← hidentity, dvd_add_right (dvd_mul_left _ _)]
  rw [hdvd]
  constructor
  · intro hzero
    rw [hzero, asPoly_zero]
    exact dvd_zero _
  · intro h
    obtain hzero | hshort := hdone
    · exact hzero
    · have hdegree : (asPoly (pdivmod u d).2).degree < (asPoly d).degree := by
        rw [degree_asPoly hd hd0]
        exact (degree_asPoly_lt _).trans_le (by exact_mod_cast Nat.le_pred_of_lt hshort)
      have hzero := Polynomial.eq_zero_of_dvd_of_degree_lt h hdegree
      exact asPoly_injOn hcanonical canonical_zero (hzero.trans asPoly_zero.symm)

end

/-- Settles O16: the passes of long division keep quotient * divisor + remainder, as polynomials over the field, and a
canonical list is known by its polynomial. -/
theorem longDivisionIdentity : Obligations.LongDivisionIdentity := by
  unfold Obligations.LongDivisionIdentity
  intro u d hu hd hd0
  obtain ⟨hidentity, -, hdone, -⟩ := pdivmod_spec hd hd0 hu
  refine ⟨asPoly_injOn (canonical_strip _) hu ?_, hdone⟩
  rw [asPoly_padd, asPoly_pmul, hidentity]

/-! The monic form (R144) -/

theorem coeff_pmonic (p : Poly) (j : Nat) : coeff (pmonic p) j = gfmul (coeff p j) (gfinv (lead p)) :=
  coeff_map (f := fun c => gfmul c (gfinv (lead p))) (gfmul_zero_left _) p j

theorem pmonic_length (p : Poly) : (pmonic p).length = p.length := List.length_map _

section

variable {p : Poly} (hp : canonical p = true) (hp0 : p ≠ [0])

include hp hp0

theorem lead_pmonic : lead (pmonic p) = 1 := by
  rw [lead_eq_coeff, pmonic_length, coeff_pmonic, ← lead_eq_coeff, gfmul_gfinv (lead_ne_zero hp hp0)]

theorem canonical_pmonic : canonical (pmonic p) = true := by
  rw [canonical_iff, lead_pmonic hp hp0, pmonic_length]
  have hpos := length_pos_of_canonical hp
  have hone : (1 : Elem) ≠ 0 := by decide
  by_cases hlen : p.length = 1
  · exact .inl hlen
  · exact .inr ⟨by omega, hone⟩

/-- A polynomial and its monic form divide each other. -/
theorem associated_asPoly_pmonic : Associated (asPoly p) (asPoly (pmonic p)) := by
  have hunit : IsUnit (Polynomial.C (residue (gfinv (lead p)))) := by
    refine Polynomial.isUnit_C.2 (IsUnit.of_mul_eq_one (residue (lead p)) ?_)
    rw [← residue_gfmul, gfmul_comm, gfmul_gfinv (lead_ne_zero hp hp0), residue_one]
  obtain ⟨c, hc⟩ := hunit
  refine ⟨c, ?_⟩
  rw [hc]
  ext j
  rw [Polynomial.coeff_mul_C, coeff_asPoly, coeff_asPoly, coeff_pmonic, residue_gfmul]

end

/-! The GCD (R145) -/

theorem pgcdLoop_of_zero (fuel : Nat) (x : Poly) : pgcdLoop fuel x [0] = x := by
  cases fuel <;> rfl

theorem pgcdLoop_of_ne_zero {y : Poly} (hy : y ≠ [0]) (fuel : Nat) (x : Poly) :
    pgcdLoop (fuel + 1) x y = pgcdLoop fuel y (pdivmod x y).2 := if_neg (mt (isZero_iff y).1 hy)

/-- A pass keeps the common divisors. -/
theorem dvd_pass_iff {x y : Poly} (hx : canonical x = true) (hy : canonical y = true) (hy0 : y ≠ [0])
    (e : Polynomial (AdjoinRoot fieldModulus)) :
    e ∣ asPoly y ∧ e ∣ asPoly (pdivmod x y).2 ↔ e ∣ asPoly x ∧ e ∣ asPoly y := by
  obtain ⟨hidentity, -⟩ := pdivmod_spec hy hy0 hx
  rw [and_comm, ← hidentity]
  exact and_congr_left fun he => (dvd_add_right (he.mul_left _)).symm

/-- Euclid's passes end in a polynomial that a polynomial divides exactly when it divides both operands. -/
theorem pgcdLoop_spec {fuel : Nat} {x y : Poly} (hx : canonical x = true) (hy : canonical y = true)
    (hxy : ¬ (x = [0] ∧ y = [0])) (hfuel : y ≠ [0] → y.length ≤ fuel) :
    canonical (pgcdLoop fuel x y) = true ∧ pgcdLoop fuel x y ≠ [0] ∧
      (pgcdLoop fuel x y).length ≤ max x.length y.length ∧
      ∀ e, e ∣ asPoly (pgcdLoop fuel x y) ↔ e ∣ asPoly x ∧ e ∣ asPoly y := by
  induction fuel generalizing x y with
  | zero =>
    have hpos := length_pos_of_canonical hy
    obtain rfl : y = [0] := by
      by_contra hy0
      exact absurd (hfuel hy0) (by omega)
    exact ⟨hx, fun h => hxy ⟨h, rfl⟩, le_max_left _ _, fun e => by rw [pgcdLoop_of_zero, asPoly_zero]; simp⟩
  | succ fuel ih =>
    by_cases hy0 : y = [0]
    · subst hy0
      rw [pgcdLoop_of_zero]
      exact ⟨hx, fun h => hxy ⟨h, rfl⟩, le_max_left _ _, fun e => by rw [asPoly_zero]; simp⟩
    · obtain ⟨-, hcanonical, hdone, -, hlen⟩ := pdivmod_spec hy hy0 hx
      have hlong := hfuel hy0
      have hpasses : (pdivmod x y).2 ≠ [0] → (pdivmod x y).2.length ≤ fuel := fun hr => by
        have := hdone.resolve_left hr
        omega
      obtain ⟨hcan, hne, hle, hdvd⟩ := ih hy hcanonical (fun h => hy0 h.1) hpasses
      rw [pgcdLoop_of_ne_zero hy0]
      exact ⟨hcan, hne, by omega, fun e => (hdvd e).trans (dvd_pass_iff hx hy hy0 e)⟩

/-- What the GCD is (R145, R158). -/
theorem pgcd_spec {u v : Poly} (hu : canonical u = true) (hv : canonical v = true) (huv : ¬ (u = [0] ∧ v = [0])) :
    canonical (pgcd u v) = true ∧ lead (pgcd u v) = 1 ∧ (pgcd u v).length ≤ max u.length v.length ∧
      ∀ e, e ∣ asPoly (pgcd u v) ↔ e ∣ asPoly u ∧ e ∣ asPoly v := by
  obtain ⟨hcanonical, hne, hlen, hdvd⟩ := pgcdLoop_spec (fuel := u.length + v.length) hu hv huv fun _ => by omega
  refine ⟨canonical_pmonic hcanonical hne, lead_pmonic hcanonical hne, ?length, fun e => ?dvd⟩
  case length =>
    rw [pgcd, pmonic_length]
    exact hlen
  case dvd =>
    rw [← hdvd, pgcd]
    exact (associated_asPoly_pmonic hcanonical hne).dvd_iff_dvd_right.symm

/-- Settles O17: Euclid's passes keep the common divisors, the monic form changes the last one by a unit, and a zero
remainder is divisibility. -/
theorem gcdIsMonicAndDividesBoth : Obligations.GcdIsMonicAndDividesBoth := by
  unfold Obligations.GcdIsMonicAndDividesBoth
  intro u v hu hv huv
  obtain ⟨hcanonical, hlead, -, hdvd⟩ := pgcd_spec hu hv huv
  have hne : pgcd u v ≠ [0] := fun h => absurd (h ▸ hlead) (by decide)
  obtain ⟨hdvdu, hdvdv⟩ := (hdvd _).1 dvd_rfl
  refine ⟨hcanonical, hlead, (pdivmod_snd_eq_zero_iff hcanonical hne hu).2 hdvdu,
    (pdivmod_snd_eq_zero_iff hcanonical hne hv).2 hdvdv, fun e he he0 heu hev => ?greatest⟩
  case greatest =>
    rw [pdivmod_snd_eq_zero_iff he he0] at heu hev ⊢
    · exact (hdvd _).2 ⟨heu, hev⟩
    all_goals assumption

/-! The commands (R148 to R151) -/

/-- A command that raises DivisionByZero where its check holds and writes a polynomial register where it does not. -/
theorem failsWith_or_writesP {zero : Prop} [Decidable zero] {check : Bool} (hcheck : check = true ↔ zero) (i : Instr)
    (s : State) (a : PReg) {q : List Elem} {holds : Poly → Prop} (hq : ¬ zero → holds (strip q)) :
    if zero then
      FailsWith (if check then raise .divisionByZero i s else .next (s.writeP a q)) .divisionByZero i s
    else WritesP (if check then raise .divisionByZero i s else .next (s.writeP a q)) a holds s := by
  simp only [hcheck]
  split
  case isTrue => exact failsWith_raise _ i s
  case isFalse hzero => exact writesP_writeP s a (hq hzero)

/-- Settles O27: the quotient is stripped where it is computed, and the remainder of a canonical dividend is
canonical, so the register write changes neither. -/
theorem pdivAndPmodWriteQuotientAndRemainder : Obligations.PdivAndPmodWriteQuotientAndRemainder := by
  unfold Obligations.PdivAndPmodWriteQuotientAndRemainder
  intro a b c s hgood
  obtain ⟨hb, -⟩ := hgood b
  obtain ⟨hc, -⟩ := hgood c
  have hpdiv := failsWith_or_writesP (isZero_iff (s.readP c)) (.pdiv a b c) s a
    (holds := (· = (pdivmod (s.readP b) (s.readP c)).1)) fun _ => strip_strip _
  have hpmod := failsWith_or_writesP (isZero_iff (s.readP c)) (.pmod a b c) s a
    (holds := (· = (pdivmod (s.readP b) (s.readP c)).2)) fun hc0 => strip_eq_self (canonical_pdivmod_snd hc hc0 hb)
  split
  case isTrue hzero =>
    rw [if_pos hzero] at hpdiv hpmod
    exact ⟨hpdiv, hpmod⟩
  case isFalse hzero =>
    rw [if_neg hzero] at hpdiv hpmod
    exact ⟨hpdiv, hpmod⟩

/-- Settles O28: past their checks PGCD and PMONIC are one register write, and scaling each coefficient of a list scales
the coefficients past its end too. -/
theorem pgcdAndPmonicNormaliseOrRaise : Obligations.PgcdAndPmonicNormaliseOrRaise := by
  unfold Obligations.PgcdAndPmonicNormaliseOrRaise
  refine fun a b c s => ⟨failsWith_or_writesP ?both (.pgcd a b c) s a fun _ => rfl,
    failsWith_or_writesP (isZero_iff _) (.pmonic a b) s a fun _ => ⟨canonical_strip _, fun j => ?monic⟩⟩
  case both => rw [Bool.and_eq_true, isZero_iff, isZero_iff]
  case monic => rw [coeff_strip, coeff_pmonic, gfinv, invExponent]

end Sys2Proof.Machine
end

section
/-! Which commands write what (10_state.md R33, R37 to R39, 20_memory.md R61, 42_ghash.md): how a command that makes
checks ends, the part of the state that each named update writes, and the two obligations settled by them. -/

namespace Sys2Proof.Machine

open Sys2Proof.Claims

/-! Commands that make checks -/

/-- The outcome is a next state of which P holds. -/
def EndsIn (P : State → Prop) (o : Host.Outcome State Fault Refusal) : Prop := ∃ t, o = .next t ∧ P t

section

variable {P : State → Prop} {i : Instr} {s : State} {k : ErrKind} {o : Host.Outcome State Fault Refusal}
  {c : Prop} [Decidable c]

theorem endsIn_next {t : State} (h : P t) : EndsIn P (.next t) := ⟨t, rfl, h⟩

theorem EndsIn.of_next {t : State} (h : EndsIn P o) (ho : o = .next t) : P t := by
  obtain ⟨u, hu, hP⟩ := h
  cases hu.symm.trans ho
  exact hP

theorem EndsIn.raiseIf (hk : P (s.enterError k (encode i))) (h : ¬ c → EndsIn P o) :
    EndsIn P (if c then raise k i s else o) := by
  split
  case isTrue => exact endsIn_next hk
  case isFalse hc => exact h hc

theorem EndsIn.raiseUnless (hk : P (s.enterError k (encode i))) (h : c → EndsIn P o) :
    EndsIn P (if c then o else raise k i s) := by
  split
  case isTrue hc => exact h hc
  case isFalse => exact endsIn_next hk

end

/-! What each command may write -/

/-- Every part of t that the command i is not listed as a writer of is as in s. -/
structure WritesOnly (i : Instr) (s t : State) : Prop where
  eregs : ∀ r : EReg, destE i ≠ some r → t.readE r = s.readE r
  pregs : ∀ r : PReg, destP i ≠ some r → t.readP r = s.readP r
  flags : writesFlags i = false → SameFlags s t
  result : writesResult i = false → SameResult s t
  dmem : writesDmem i = false → SameMem s t
  ghash : writesGhash i = false → SameGhash s t
  error : i ≠ .clrerr → s.err = true → t.err = true

variable {i : Instr} {s : State}

theorem writesOnly_self : WritesOnly i s s := by
  constructor <;> simp [SameFlags, SameResult, SameMem, SameGhash]

theorem writesOnly_enterError (k : ErrKind) (w : CmdWord) : WritesOnly i s (s.enterError k w) := by
  constructor <;> simp [SameFlags, SameResult, SameMem, SameGhash]

theorem writesOnly_clearError : WritesOnly .clrerr s s.clearError := by
  constructor <;> simp [SameFlags, SameResult, SameMem, SameGhash]

theorem writesOnly_writeE {a : EReg} (hi : destE i = some a) (v : Elem) : WritesOnly i s (s.writeE a v) where
  eregs r hr := s.readE_writeE_other v fun h => hr (h ▸ hi)
  pregs := by simp
  flags := by simp [SameFlags]
  result := by simp [SameResult]
  dmem := by simp [SameMem]
  ghash := by simp [SameGhash]
  error := by simp

theorem writesOnly_writeP {a : PReg} (hi : destP i = some a) (q : List Elem) : WritesOnly i s (s.writeP a q) where
  eregs := by simp
  pregs r hr := s.readP_writeP_other q fun h => hr (h ▸ hi)
  flags := by simp [SameFlags]
  result := by simp [SameResult]
  dmem := by simp [SameMem]
  ghash := by simp [SameGhash]
  error := by simp

theorem writesOnly_setFlags (hi : writesFlags i = true) (x y : Bool) : WritesOnly i s (s.setFlags x y) := by
  constructor <;> simp [hi, SameResult, SameMem, SameGhash]

theorem WritesOnly.setResult {t : State} (h : WritesOnly i s t) (hi : writesResult i = true) (n : Nat) :
    WritesOnly i s (t.setResult n) where
  __ := h
  result := by simp [hi]

theorem writesOnly_memWrite (hi : writesDmem i = true) (addr : Nat) (bytes : List Byte) :
    WritesOnly i s (s.memWrite addr bytes) := by
  constructor <;> simp [hi, SameFlags, SameResult, SameGhash]

theorem writesOnly_of_sameButGhash (hi : writesGhash i = true) {t : State} (h : SameButGhash s t) :
    WritesOnly i s t := by
  obtain ⟨he, hp, hflags, hresult, ⟨herr, -⟩, hmem, -⟩ := h
  exact ⟨fun r _ => he r, fun r _ => hp r, fun _ => hflags, fun _ => hresult, fun _ => hmem, by simp [hi],
    fun _ hs => herr.trans hs⟩

/-- The commands by how they end: with one register, with flags or RESULT, with DMEM, or with the GHASH state. -/
theorem exec_writesOnly (i : Instr) (s : State) : EndsIn (WritesOnly i s) (exec i s) := by
  have hraise : ∀ k, WritesOnly i s (s.enterError k (encode i)) := fun k => writesOnly_enterError k _
  cases i with
  | nop => exact endsIn_next writesOnly_self
  | clrerr => exact endsIn_next writesOnly_clearError
  | fadd | fmul | fpow | fmov | fli | pgetc | grd => exact endsIn_next (writesOnly_writeE rfl _)
  | finv | fdiv => exact .raiseIf (hraise _) fun _ => endsIn_next (writesOnly_writeE rfl _)
  | fldb | fldi | gtag => exact .raiseUnless (hraise _) fun _ => endsIn_next (writesOnly_writeE rfl _)
  | padd | pmov => exact endsIn_next (writesOnly_writeP rfl _)
  | pmul | pdiv | pmod | pgcd | pmonic | psetc =>
    exact .raiseIf (hraise _) fun _ => endsIn_next (writesOnly_writeP rfl _)
  | pld => exact .raiseUnless (hraise _) fun _ => .raiseIf (hraise _) fun _ => endsIn_next (writesOnly_writeP rfl _)
  | fcmp => exact endsIn_next (writesOnly_setFlags rfl _ _)
  | pdeg => exact endsIn_next ((writesOnly_setFlags rfl _ _).setResult rfl _)
  | fstb | fsti => exact .raiseUnless (hraise _) fun _ => endsIn_next (writesOnly_memWrite rfl _ _)
  | pst => exact .raiseUnless (hraise _) fun _ => endsIn_next ((writesOnly_memWrite rfl _ _).setResult rfl _)
  | ginit => exact endsIn_next (writesOnly_of_sameButGhash rfl (sameButGhash_startMessage s _ _))
  | gad n blk =>
    exact .raiseIf (hraise _) fun _ => .raiseIf (hraise _) fun _ => .raiseIf (hraise _) fun _ => .raiseIf (hraise _)
      fun _ => endsIn_next (writesOnly_of_sameButGhash rfl (sameButGhash_absorb .ad n blk s))
  | gct n blk =>
    exact .raiseIf (hraise _) fun _ => .raiseIf (hraise _) fun _ => .raiseIf (hraise _) fun _ => .raiseIf (hraise _)
      fun _ => endsIn_next (writesOnly_of_sameButGhash rfl (sameButGhash_absorb .ct n blk s))
  | gfin => exact .raiseUnless (hraise _) fun _ => endsIn_next (writesOnly_of_sameButGhash rfl (sameButGhash_finish s))

/-- Settles O39: a command ends with an update of its destination, of no register, or with an error. -/
theorem onlyTheDestinationRegisterChanges : Obligations.OnlyTheDestinationRegisterChanges := by
  unfold Obligations.OnlyTheDestinationRegisterChanges
  intro i s t hexec
  have h := (exec_writesOnly i s).of_next hexec
  exact ⟨h.eregs, h.pregs⟩

/-- Settles O40: a command ends with an update of the parts it is listed for, and CLRERR alone leaves ERR at 0. -/
theorem eachPartOfStateHasOnlyItsWriters : Obligations.EachPartOfStateHasOnlyItsWriters := by
  unfold Obligations.EachPartOfStateHasOnlyItsWriters
  intro i s t hexec
  have h := (exec_writesOnly i s).of_next hexec
  exact ⟨h.flags, h.result, h.dmem, h.ghash, h.error⟩

end Sys2Proof.Machine
end

section
/-! The invariant of the machine (10_state.md R36, R41, R42, 20_memory.md R60, 60_exceptions.md R200): that it holds at
reset, that each named update of the state keeps it, and that so does every step; with the reset values (10_state.md
R48), the three obligations settled by them. -/

namespace Sys2Proof.Machine

/-! The state at reset (10_state.md R48) -/

theorem readE_reset (r : EReg) : State.reset.readE r = 0 := by simp [State.reset, State.readE]

theorem readP_reset (r : PReg) : State.reset.readP r = [0] := by simp [State.reset, State.readP]

/-- Settles O50: the registers read as the vectors of State.reset, and each other piece is one of its fields. -/
theorem resetPutsEveryPieceInItsValue : Obligations.ResetPutsEveryPieceInItsValue := by
  unfold Obligations.ResetPutsEveryPieceInItsValue
  refine ⟨readE_reset, readP_reset, ?_⟩
  decide

/-- The reset values meet the invariant with every legal parameter (10_state.md R48, 70_reset_and_hazards.md R230). -/
theorem inv_takeReset {s : State} (h : s.params.Legal) : s.takeReset.Inv := by
  obtain ⟨⟨hpmaxlen, -⟩, -⟩ := id h
  refine ⟨h, fun r => ?polys, ⟨List.Pairwise.nil, by simp [State.reset]⟩, ⟨rfl, rfl⟩,
    by simp [State.GhashGood, State.reset]⟩
  case polys =>
    have hr : s.takeReset.readP r = [0] := readP_reset r
    rw [hr]
    exact ⟨rfl, (by decide : 1 ≤ 2).trans hpmaxlen⟩

/-- Settles O52: the default parameters are legal, and the state is the one that taking a reset leaves. -/
theorem resetMeetsTheInvariant : Obligations.ResetMeetsTheInvariant :=
  (inv_takeReset (s := State.reset) (by decide) :)

/-! Each update keeps the invariant -/

variable {s : State}

theorem inv_enterError (h : s.Inv) {k : ErrKind} (hk : k.code ∈ raisedCodes) (w : CmdWord) :
    (s.enterError k w).Inv := by
  obtain ⟨hparams, hpolys, hmem, -, hghash⟩ := h
  exact ⟨hparams, hpolys, hmem, hk, hghash⟩

theorem inv_clearError (h : s.Inv) : s.clearError.Inv := by
  obtain ⟨hparams, hpolys, hmem, -, hghash⟩ := h
  exact ⟨hparams, hpolys, hmem, ⟨rfl, rfl⟩, hghash⟩

theorem inv_writeP (h : s.Inv) (a : PReg) {q : List Elem} (hq : q.length ≤ s.params.pmaxlen) : (s.writeP a q).Inv := by
  obtain ⟨hparams, hpolys, hmem, herror, hghash⟩ := h
  obtain ⟨⟨hpmaxlen, -⟩, -⟩ := id hparams
  refine ⟨hparams, fun r => ?polys, hmem, herror, hghash⟩
  case polys =>
    by_cases hr : r = a
    · rw [hr, State.readP_writeP_same]
      exact ⟨canonical_strip q, (strip_length_le q).trans (max_le hq ((by decide : 1 ≤ 2).trans hpmaxlen))⟩
    · rw [State.readP_writeP_other s q hr]
      exact hpolys r

theorem inv_memWrite (h : s.Inv) {addr : Nat} {bytes : List Byte} (hend : addr + bytes.length ≤ s.params.dmemBytes) :
    (s.memWrite addr bytes).Inv := by
  obtain ⟨hparams, hpolys, ⟨hwf, hbound⟩, herror, hghash⟩ := h
  refine ⟨hparams, hpolys, ⟨Memory.wf_writeBytes bytes hwf addr, fun c hc => ?bound⟩, herror, hghash⟩
  case bound =>
    obtain ⟨-, hlt⟩ | hold := Memory.mem_writeBytes bytes hc
    · exact hlt.trans_le hend
    · exact hbound c hold

theorem inv_startMessage (h : s.Inv) (x y : Elem) : (s.startMessage x y).Inv := by
  obtain ⟨hparams, hpolys, hmem, herror, -⟩ := h
  exact ⟨hparams, hpolys, hmem, herror, by simp [State.GhashGood]⟩

/-- A stream's counter grows by whole bytes, and that of the ciphertext is not zero after. -/
theorem ghashGood_absorb (h : s.GhashGood) {st : GhashStream} {n blk : Nat} (hacc : st.Accepts n blk s) :
    (st.absorb n blk s).GhashGood := by
  obtain ⟨had, hct, -, hnoCt, -⟩ := h
  have hpos := Nat.pos_of_ne_zero hacc.nonempty
  cases st with
  | ad =>
    have hphase : s.gphase = .ad := hacc.ready
    have hbits : (s.ghAdBits + BitVec.ofNat 64 (8 * n)).toNat = s.ghAdBits.toNat + 8 * n :=
      toNat_add_of_le_maxBitLen hacc.fits
    refine ⟨?_, hct, by simp [GhashStream.absorb, hphase], fun _ => hnoCt hphase,
      by simp [GhashStream.absorb, hphase]⟩
    rw [GhashStream.absorb, State.addAdBits_ghAdBits, State.setAcc_ghAdBits, hbits]
    omega
  | ct =>
    have hbits : (s.ghCtBits + BitVec.ofNat 64 (8 * n)).toNat = s.ghCtBits.toNat + 8 * n :=
      toNat_add_of_le_maxBitLen hacc.fits
    have hne : s.ghCtBits + BitVec.ofNat 64 (8 * n) ≠ 0 := fun hzero => by
      have hzero : (s.ghCtBits + BitVec.ofNat 64 (8 * n)).toNat = 0 := by rw [hzero]; rfl
      omega
    refine ⟨had, ?_, by simp [GhashStream.absorb], by simp [GhashStream.absorb], fun _ => hne⟩
    rw [GhashStream.absorb, State.setPhase_ghCtBits, State.addCtBits_ghCtBits, State.setAcc_ghCtBits, hbits]
    omega

theorem inv_absorb (h : s.Inv) {st : GhashStream} {n blk : Nat} (hacc : st.Accepts n blk s) :
    (st.absorb n blk s).Inv := by
  obtain ⟨hparams, hpolys, hmem, herror, hghash⟩ := h
  have hghash' := ghashGood_absorb hghash hacc
  cases st <;> exact ⟨hparams, hpolys, hmem, herror, hghash'⟩

theorem inv_finish (h : s.Inv) : s.finish.Inv := by
  obtain ⟨hparams, hpolys, hmem, herror, had, hct, -⟩ := h
  exact ⟨hparams, hpolys, hmem, herror, had, hct, by simp [State.finish]⟩

/-! The polynomials that the commands write fit (10_state.md R36) -/

theorem pmul_of_zero {p q : Poly} (h : p = [0] ∨ q = [0]) : pmul p q = [0] := by
  refine asPoly_injOn (canonical_strip _) canonical_zero ?_
  rw [asPoly_pmul, asPoly_zero]
  obtain rfl | rfl := h
  · rw [asPoly_zero, zero_mul]
  · rw [asPoly_zero, mul_zero]

theorem pmul_length_le {p q : Poly} {n : Nat} (hn : 1 ≤ n) (h : ¬ productTooLong p q n = true) :
    (pmul p q).length ≤ n := by
  by_cases hzero : p = [0] ∨ q = [0]
  · rw [pmul_of_zero hzero]
    exact hn
  · obtain ⟨hp, hq⟩ := not_or.1 hzero
    have hfits : p.length + q.length - 1 ≤ n := not_lt.1 fun hlong => h ((productTooLong_iff p q n).2 ⟨hp, hq, hlong⟩)
    refine (strip_length_le _).trans (max_le ?_ hn)
    simpa using hfits

theorem setCoeff_length (p : Poly) (i : Nat) (v : Elem) : (setCoeff p i v).length = max p.length (i + 1) := by
  rw [setCoeff, List.length_set, List.length_append, List.length_replicate]
  omega

/-! Every command keeps the invariant -/

theorem GhashStream.exec_command_endsIn {P : State → Prop} {st : GhashStream} {n blk : Nat}
    (hraise : ∀ k : ErrKind, k.code ∈ raisedCodes → P (s.enterError k (encode (st.command n blk))))
    (h : st.Accepts n blk s → P (st.absorb n blk s)) : EndsIn P (exec (st.command n blk) s) := by
  rw [exec_command]
  refine .raiseIf (hraise _ (by decide)) fun hopen => .raiseIf (hraise _ (by decide)) fun hn =>
    .raiseIf (hraise _ (by decide)) fun hrange => .raiseIf (hraise _ (by decide)) fun hfits => endsIn_next (h ?_)
  rw [Bool.not_eq_true', Bool.not_eq_false] at hopen hrange
  obtain ⟨hready, hwhole⟩ := isOpen_iff.1 hopen
  exact ⟨hready, hwhole, hn, hrange, not_lt.1 hfits⟩

theorem blockAddr_add_le {blk k : Nat} (h : s.blocksInRange blk k = true) :
    blockAddr blk + 16 * k ≤ s.params.dmemBytes := by
  rw [blocksInRange_iff] at h
  rw [blockAddr, Params.dmemBytes]
  omega

theorem exec_keeps_inv (h : s.Inv) (i : Instr) : EndsIn State.Inv (exec i s) := by
  have hraise : ∀ k : ErrKind, k.code ∈ raisedCodes → (s.enterError k (encode i)).Inv :=
    fun k hk => inv_enterError h hk _
  obtain ⟨⟨⟨hpmaxlen, -⟩, -⟩, hpolys, -⟩ := id h
  have hcanonical : ∀ r, canonical (s.readP r) = true := fun r => (hpolys r).1
  have hlen : ∀ r, (s.readP r).length ≤ s.params.pmaxlen := fun r => (hpolys r).2
  have hone : 1 ≤ s.params.pmaxlen := (by decide : 1 ≤ 2).trans hpmaxlen
  cases i with
  | nop | fadd | fmul | fpow | fmov | fli | pgetc | grd | fcmp | pdeg => exact endsIn_next h
  | clrerr => exact endsIn_next (inv_clearError h)
  | finv | fdiv => exact .raiseIf (hraise _ (by decide)) fun _ => endsIn_next h
  | fldb | fldi | gtag => exact .raiseUnless (hraise _ (by decide)) fun _ => endsIn_next h
  | padd a b c =>
    exact endsIn_next (inv_writeP h a ((padd_length_le _ _).trans (max_le (max_le (hlen b) (hlen c)) hone)))
  | pmul a b c =>
    exact .raiseIf (hraise _ (by decide)) fun hfits => endsIn_next (inv_writeP h a (pmul_length_le hone hfits))
  | pdiv a b c =>
    refine .raiseIf (hraise _ (by decide)) fun hc => endsIn_next (inv_writeP h a ?_)
    obtain ⟨-, -, -, hquotient, -⟩ := pdivmod_spec (hcanonical c) (mt (isZero_iff _).2 hc) (hcanonical b)
    exact hquotient.trans (hlen b)
  | pmod a b c =>
    refine .raiseIf (hraise _ (by decide)) fun hc => endsIn_next (inv_writeP h a ?_)
    obtain ⟨-, -, -, -, hremainder⟩ := pdivmod_spec (hcanonical c) (mt (isZero_iff _).2 hc) (hcanonical b)
    exact hremainder.trans (hlen b)
  | pgcd a b c =>
    refine .raiseIf (hraise _ (by decide)) fun hbc => endsIn_next (inv_writeP h a ?_)
    rw [Bool.and_eq_true, isZero_iff, isZero_iff] at hbc
    obtain ⟨-, -, hgcd, -⟩ := pgcd_spec (hcanonical b) (hcanonical c) hbc
    exact hgcd.trans (max_le (hlen b) (hlen c))
  | pmonic a b =>
    exact .raiseIf (hraise _ (by decide)) fun _ => endsIn_next (inv_writeP h a ((pmonic_length _).trans_le (hlen b)))
  | pmov a b => exact endsIn_next (inv_writeP h a (hlen b))
  | psetc a b imm =>
    refine .raiseIf (hraise _ (by decide)) fun himm => endsIn_next (inv_writeP h a ?_)
    rw [setCoeff_length]
    exact max_le (hlen a) (not_le.1 himm)
  | pld a n blk =>
    refine .raiseUnless (hraise _ (by decide)) fun _ => .raiseIf (hraise _ (by decide)) fun hn =>
      endsIn_next (inv_writeP h a ?_)
    rw [State.readCoeffs, List.length_map, List.length_range]
    exact not_lt.1 hn
  | fstb a blk =>
    exact .raiseUnless (hraise _ (by decide)) fun hrange =>
      endsIn_next (inv_memWrite h (elemToBlock_length _ ▸ blockAddr_add_le hrange))
  | fsti a blk =>
    exact .raiseUnless (hraise _ (by decide)) fun hrange =>
      endsIn_next (inv_memWrite h (elemToInt_length _ ▸ blockAddr_add_le hrange))
  | pst a blk =>
    refine .raiseUnless (hraise _ (by decide)) fun hrange => endsIn_next ?_
    exact inv_memWrite h (interchangeBytes_length _ ▸ blockAddr_add_le hrange)
  | ginit => exact endsIn_next (inv_startMessage h _ _)
  | gad => exact GhashStream.exec_command_endsIn (st := .ad) hraise (inv_absorb h)
  | gct => exact GhashStream.exec_command_endsIn (st := .ct) hraise (inv_absorb h)
  | gfin => exact .raiseUnless (hraise _ (by decide)) fun _ => endsIn_next (inv_finish h)

/-! Every transition keeps the invariant -/

theorem issue_keeps_inv (h : s.Inv) {w : CmdWord} {t : State} (hissue : issue w s = .next t) : t.Inv := by
  obtain ⟨-, hdiscarded⟩ | ⟨i, -, -, hexec⟩ | ⟨x, -, -, hillegal⟩ := issue_cases w s
  · cases hdiscarded.symm.trans hissue
    exact h
  · exact (exec_keeps_inv h i).of_next (hexec.symm.trans hissue)
  · cases hillegal.symm.trans hissue
    exact inv_enterError h (by decide) w

theorem engineTurn_keeps_inv (h : s.Inv) {t : State} (hturn : engineTurn s = .next t) : t.Inv := by
  obtain ⟨-, hreset⟩ | ⟨w, -, -, hcompletes⟩ | ⟨w, -, -, -, htakes⟩ | ⟨-, -, -, hidle⟩ := engineTurn_cases s
  · cases hreset.symm.trans hturn
    exact h
  · obtain ⟨u, hissue, rfl⟩ := complete_eq_next (hcompletes.symm.trans hturn)
    have hu : u.Inv := issue_keeps_inv h hissue
    exact hu
  · cases htakes.symm.trans hturn
    exact h
  · cases hidle.symm.trans hturn
    exact h

theorem hostAccess_keeps_inv (h : s.Inv) {a : HostAccess} {t : State} (haccess : hostAccess a s = .next t) : t.Inv := by
  cases a with
  | read size off =>
    obtain ⟨r, rfl⟩ := windowRead_next haccess
    exact h
  | write size off data =>
    obtain ⟨-, rfl⟩ | rfl | ⟨hlow, hhigh, rfl⟩ := windowWrite_next haccess
    · obtain ⟨-, hcmd⟩ | ⟨-, hcmd⟩ := s.writeCmd_cases data <;>
      · rw [hcmd]
        exact h
    · exact h
    · exact inv_memWrite (addr := off - offDmem) (bytes := [data.truncate 8]) h (by simp; omega)

/-- Settles O53: a step completes a command, takes a held word, serves a host access, or is an edge of reset, and each
of these keeps the invariant. -/
theorem everyStepKeepsTheInvariant : Obligations.EveryStepKeepsTheInvariant := by
  unfold Obligations.EveryStepKeepsTheInvariant
  intro s t h hstep
  obtain ⟨-, hidle⟩ | ⟨es, -, hengine⟩ | ⟨es, -, hassert⟩ | ⟨es, -, hrelease⟩ | ⟨a, es, -, -, hdropped⟩ |
    ⟨a, es, -, -, -, hwaiting⟩ | ⟨a, es, -, -, -, haccess⟩ := advance_cases s
  · exact engineTurn_keeps_inv h (hidle.symm.trans hstep)
  · exact engineTurn_keeps_inv (s := { s with events := es }) h (hengine.symm.trans hstep)
  · cases hassert.symm.trans hstep
    obtain ⟨hparams, -⟩ := h
    exact inv_takeReset (s := { s with events := es }) hparams
  · cases hrelease.symm.trans hstep
    exact h
  · cases hdropped.symm.trans hstep
    exact h
  · exact engineTurn_keeps_inv h (hwaiting.symm.trans hstep)
  · exact hostAccess_keeps_inv (s := { s with events := es }) h (haccess.symm.trans hstep)

end Sys2Proof.Machine
end

section
/-! Steps and the host's bus (10_state.md R42 to R47, 20_memory.md R66, 70_reset_and_hazards.md R236, R237, R240): what
each event does while reset is not asserted, what the register window answers to each kind of access, and the seven
obligations settled by them. -/

namespace Sys2Proof.Machine

variable {s : State} {es : List Event} {w v : CmdWord} {a : HostAccess} {size off : Nat}

/-! The engine's turn (R45, R236) -/

theorem step_noEvent (hevents : s.events = []) : step s = engineTurn s := by simp [step, advance, hevents]

theorem step_engine (hevents : s.events = .engine :: es) : step s = engineTurn { s with events := es } := by
  simp [step, advance, hevents]

theorem step_access_waits (hreset : s.inReset = false) (hheld : s.held = some w)
    (hevents : s.events = .access a :: es) : step s = engineTurn s := by simp [step, advance, hevents, hreset, hheld]

theorem step_access (hreset : s.inReset = false) (hheld : s.held = none) (hevents : s.events = .access a :: es) :
    step s = hostAccess a { s with events := es } := by simp [step, advance, hevents, hreset, hheld]

theorem engineTurn_takes_held (hreset : s.inReset = false) (hrunning : s.running = none) (hheld : s.held = some w) :
    engineTurn s = .next { s with running := some w, held := none } := by simp [engineTurn, hreset, hrunning, hheld]

theorem withEvents_self (hevents : s.events = es) : { s with events := es } = s := by rw [← hevents]

theorem gateDiscards_eq_false (h : s.err = false ∨ w = clrerrWord) : s.gateDiscards w = false := by
  obtain h | h := h <;> simp [State.gateDiscards, h]

/-- Settles O43: the engine's turn completes the word in execution, and a legal word past the gate is its command. -/
theorem stepRunsTheDecodedCommand : Obligations.StepRunsTheDecodedCommand := by
  unfold Obligations.StepRunsTheDecodedCommand
  intro s w i es hreset hrunning hevents hgate hdecode
  have hturn : step s = engineTurn { s with events := es } := by
    obtain ⟨hevents, rfl⟩ | hevents := hevents
    · rw [withEvents_self hevents, step_noEvent hevents]
    · exact step_engine hevents
  have hgate' : { s with events := es }.gateDiscards w = false := gateDiscards_eq_false hgate
  rw [hturn, engineTurn_running (s := { s with events := es }) hreset hrunning, issue_legal hgate' hdecode]

/-! The register window (R42, R47, R237) -/

theorem wordAccess_eq_true (hoff : off % 4 = 0) : wordAccess 4 off = true := by simp [wordAccess, hoff]

theorem wordAccess_eq_false (h : size ≠ 4 ∨ off % 4 ≠ 0) : wordAccess size off = false := by
  simpa [wordAccess] using not_and_or.2 h

theorem busy_of_running (hrunning : s.running = some w) : s.busy = true := by simp [State.busy, hrunning]

theorem busy_of_idle (hrunning : s.running = none) : s.busy = false := by simp [State.busy, hrunning]

theorem windowRead_not_word (hlow : off < offDmem) (h : size ≠ 4 ∨ off % 4 ≠ 0) :
    windowRead size off s = .refused .registerAccessNotWord := by
  simp [windowRead, hlow, wordAccess_eq_false h]

theorem windowWrite_not_word (hlow : off < offDmem) (h : size ≠ 4 ∨ off % 4 ≠ 0) :
    windowWrite size off v s = .refused .registerAccessNotWord := by
  simp [windowWrite, hlow, wordAccess_eq_false h]

theorem windowRead_register (hlow : off < offDmem) (hoff : off % 4 = 0)
    (h : s.busy = false ∨ off = offStatus ∨ off = offParam) :
    windowRead 4 off s = .next { s with response := some (.word (s.readRegister off)) } := by
  have hadmitted : ¬ (s.busy && off != offStatus && off != offParam) = true := by
    obtain h | h | h := h <;> simp [h]
  rw [windowRead, if_pos hlow, wordAccess_eq_true hoff, if_neg hadmitted]
  rfl

theorem windowRead_register_busy (hbusy : s.busy = true) (hlow : off < offDmem) (hoff : off % 4 = 0)
    (hstatus : off ≠ offStatus) (hparam : off ≠ offParam) :
    windowRead 4 off s = .refused .hostAccessWhileBusy := by
  simp [windowRead, hlow, wordAccess_eq_true hoff, hbusy, hstatus, hparam]

theorem windowWrite_cmd : windowWrite 4 offCmd v s = .next { s.writeCmd v with response := none } := rfl

theorem windowWrite_register_busy (hbusy : s.busy = true) (hlow : off < offDmem) (hoff : off % 4 = 0)
    (hcmd : off ≠ offCmd) : windowWrite 4 off v s = .refused .hostAccessWhileBusy := by
  simp [windowWrite, hlow, wordAccess_eq_true hoff, hbusy, hcmd]

theorem windowWrite_register_idle (hbusy : s.busy = false) (hlow : off < offDmem) (hoff : off % 4 = 0)
    (hcmd : off ≠ offCmd) : windowWrite 4 off v s = .next { s with response := none } := by
  simp [windowWrite, hlow, wordAccess_eq_true hoff, hbusy, hcmd]

/-! DMEM behind the window (20_memory.md R66) -/

variable {x : Nat}

theorem windowRead_dmem_wide (hx : x < s.params.dmemBytes) (hsize : size ≠ 1) :
    windowRead size (offDmem + x) s = .refused .dmemAccessNotByte := by simp [windowRead, hx, hsize]

theorem windowWrite_dmem_wide (hx : x < s.params.dmemBytes) (hsize : size ≠ 1) :
    windowWrite size (offDmem + x) v s = .refused .dmemAccessNotByte := by simp [windowWrite, hx, hsize]

theorem windowRead_dmem_busy (hbusy : s.busy = true) (hx : x < s.params.dmemBytes) :
    windowRead 1 (offDmem + x) s = .refused .hostAccessWhileBusy := by simp [windowRead, hx, hbusy]

theorem windowWrite_dmem_busy (hbusy : s.busy = true) (hx : x < s.params.dmemBytes) :
    windowWrite 1 (offDmem + x) v s = .refused .hostAccessWhileBusy := by simp [windowWrite, hx, hbusy]

theorem windowRead_dmem_idle (hbusy : s.busy = false) (hx : x < s.params.dmemBytes) :
    windowRead 1 (offDmem + x) s = .next { s with response := some (.byte (s.dmemByte x)) } := by
  simp [windowRead, hx, hbusy]

theorem windowWrite_dmem_idle (hbusy : s.busy = false) (hx : x < s.params.dmemBytes) :
    windowWrite 1 (offDmem + x) v s =
      .next { s with dmem := s.dmem.write x (v.truncate 8), response := none } := by
  simp [windowWrite, hx, hbusy]

/-- A byte written by the host is read back, and every other byte is as before (20_memory.md R61). -/
theorem dmemByte_write (s : State) (b : Byte) (r : Option Response) (y : Nat) :
    { s with dmem := s.dmem.write x b, response := r }.dmemByte y = if y = x then b else s.dmemByte y := by
  simp only [State.dmemByte, Memory.lookup_write, eq_comm (a := x)]
  split <;> rfl

theorem windowRead_outside (h : offDmem + s.params.dmemBytes ≤ off) :
    windowRead size off s = .refused .accessOutsideWindow := by
  rw [windowRead, if_neg (by omega), if_neg (by omega)]

theorem windowWrite_outside (h : offDmem + s.params.dmemBytes ≤ off) :
    windowWrite size off v s = .refused .accessOutsideWindow := by
  rw [windowWrite, if_neg (by omega), if_neg (by omega)]

/-! The obligations -/

/-- Settles O44: a CMD write is taken or held by BUSY, and an access behind a held word gives the engine its turn. -/
theorem cmdWritesAreTakenOrHeld : Obligations.CmdWritesAreTakenOrHeld := by
  unfold Obligations.CmdWritesAreTakenOrHeld
  refine fun s w es a hreset => ⟨fun hheld hevents => ?write, fun hheld hevents => ?waits⟩
  case write =>
    have hwrite : step s = .next { { s with events := es }.writeCmd w with response := none } :=
      step_access hreset hheld hevents
    refine ⟨fun hrunning => ?_, fun v hrunning => ?_⟩ <;> simp [hwrite, State.writeCmd, State.busy, hrunning]
  case waits =>
    rw [step_access_waits hreset hheld hevents]
    exact ⟨fun v hrunning => engineTurn_running hreset hrunning,
      fun hrunning => engineTurn_takes_held hreset hrunning hheld⟩

theorem windowRead_busy_refuses (hbusy : s.busy = true) (h : size = 4 → off ≠ offStatus ∧ off ≠ offParam) :
    ∃ r, windowRead size off s = .refused r := by
  by_cases hlow : off < offDmem
  · by_cases hword : size ≠ 4 ∨ off % 4 ≠ 0
    · exact ⟨_, windowRead_not_word hlow hword⟩
    · obtain ⟨rfl, hoff⟩ : size = 4 ∧ off % 4 = 0 := by omega
      obtain ⟨hstatus, hparam⟩ := h rfl
      exact ⟨_, windowRead_register_busy hbusy hlow hoff hstatus hparam⟩
  · obtain ⟨x, rfl⟩ := Nat.exists_eq_add_of_le (not_lt.1 hlow)
    by_cases hx : x < s.params.dmemBytes
    · by_cases hsize : size = 1
      · exact ⟨_, hsize ▸ windowRead_dmem_busy hbusy hx⟩
      · exact ⟨_, windowRead_dmem_wide hx hsize⟩
    · exact ⟨_, windowRead_outside (by omega)⟩

theorem windowWrite_busy_refuses (hbusy : s.busy = true) (h : size = 4 → off ≠ offCmd) :
    ∃ r, windowWrite size off v s = .refused r := by
  by_cases hlow : off < offDmem
  · by_cases hword : size ≠ 4 ∨ off % 4 ≠ 0
    · exact ⟨_, windowWrite_not_word hlow hword⟩
    · obtain ⟨rfl, hoff⟩ : size = 4 ∧ off % 4 = 0 := by omega
      exact ⟨_, windowWrite_register_busy hbusy hlow hoff (h rfl)⟩
  · obtain ⟨x, rfl⟩ := Nat.exists_eq_add_of_le (not_lt.1 hlow)
    by_cases hx : x < s.params.dmemBytes
    · by_cases hsize : size = 1
      · exact ⟨_, hsize ▸ windowWrite_dmem_busy hbusy hx⟩
      · exact ⟨_, windowWrite_dmem_wide hx hsize⟩
    · exact ⟨_, windowWrite_outside (by omega)⟩

/-- While BUSY = 1 every access but the three served ones is refused, whatever its width and offset. -/
theorem hostAccess_busy_refuses (hbusy : s.busy = true) (hstatus : a ≠ .read 4 offStatus)
    (hparam : a ≠ .read 4 offParam) (hcmd : ∀ v, a ≠ .write 4 offCmd v) : ∃ r, hostAccess a s = .refused r := by
  cases a with
  | read size off =>
    refine windowRead_busy_refuses hbusy fun hsize => ⟨fun hoff => hstatus ?_, fun hoff => hparam ?_⟩ <;>
      rw [hsize, hoff]
  | write size off v =>
    refine windowWrite_busy_refuses hbusy fun hsize hoff => hcmd v ?_
    rw [hsize, hoff]

/-- Settles O45: by the kind of access, and by the window's lemma for that kind while BUSY = 1. -/
theorem busyAdmitsOnlyStatusParamAndCmd : Obligations.BusyAdmitsOnlyStatusParamAndCmd := by
  unfold Obligations.BusyAdmitsOnlyStatusParamAndCmd
  intro s w es a hreset hheld hrunning hevents
  have hbusy : { s with events := es }.busy = true := busy_of_running hrunning
  rw [step_access hreset hheld hevents]
  refine ⟨?status, ?param, ?cmd, ?result, ?reads, ?writes, ?dmem, ?others⟩
  case status =>
    rintro rfl
    exact windowRead_register (by decide) rfl (.inr (.inl rfl))
  case param =>
    rintro rfl
    exact windowRead_register (by decide) rfl (.inr (.inr rfl))
  case cmd =>
    rintro v rfl
    refine windowWrite_cmd.trans ?_
    rw [State.writeCmd, if_pos hbusy]
  case result =>
    rintro (rfl | rfl) <;> exact windowRead_register_busy hbusy (by decide) rfl (by decide) (by decide)
  case reads =>
    rintro off rfl hoff hlow hstatus hparam
    exact windowRead_register_busy hbusy hlow hoff hstatus hparam
  case writes =>
    rintro off v rfl hoff hlow hcmd
    exact windowWrite_register_busy hbusy hlow hoff hcmd
  case dmem =>
    rintro x v hx (rfl | rfl)
    · exact windowRead_dmem_busy hbusy hx
    · exact windowWrite_dmem_busy hbusy hx
  case others =>
    exact hostAccess_busy_refuses hbusy

/-- Settles O46: by the kind of access, and by the window's lemma for that kind while the engine is idle. -/
theorem registerWindowOfAnIdleEngine : Obligations.RegisterWindowOfAnIdleEngine := by
  unfold Obligations.RegisterWindowOfAnIdleEngine
  intro s es a hreset hheld hrunning hevents
  have hbusy : { s with events := es }.busy = false := busy_of_idle hrunning
  rw [step_access hreset hheld hevents]
  refine ⟨?reads, ?writes, ?widths⟩
  case reads =>
    rintro off rfl hoff hlow
    exact windowRead_register hlow hoff (.inl hbusy)
  case writes =>
    rintro off v rfl hoff hlow hcmd
    exact windowWrite_register_idle hbusy hlow hoff hcmd
  case widths =>
    rintro size off v (rfl | rfl) hlow h
    · exact windowRead_not_word hlow h
    · exact windowWrite_not_word hlow h

/-- Settles O47: by the kind of access, and by the window's lemma for that kind while the engine is idle. -/
theorem hostReadsAndWritesDmemBytes : Obligations.HostReadsAndWritesDmemBytes := by
  unfold Obligations.HostReadsAndWritesDmemBytes
  intro s es acc hreset hheld hrunning hevents
  have hbusy : { s with events := es }.busy = false := busy_of_idle hrunning
  rw [step_access hreset hheld hevents]
  refine ⟨?read, ?write, ?wide, ?outside⟩
  case read =>
    rintro a ha rfl
    exact windowRead_dmem_idle hbusy ha
  case write =>
    rintro a v ha rfl
    refine ⟨_, windowWrite_dmem_idle hbusy ha, dmemByte_write { s with events := es } _ none, fun _ => rfl,
      fun _ => rfl, ⟨rfl, rfl⟩, rfl, ⟨rfl, rfl, rfl, rfl, rfl, rfl⟩, ⟨rfl, rfl, rfl⟩⟩
  case wide =>
    rintro a size v ha hsize (rfl | rfl)
    · exact windowRead_dmem_wide (s := { s with events := es }) ha hsize.ne'
    · exact windowWrite_dmem_wide (s := { s with events := es }) ha hsize.ne'
  case outside =>
    rintro off size v hoff (rfl | rfl)
    · exact windowRead_outside (s := { s with events := es }) hoff
    · exact windowWrite_outside (s := { s with events := es }) hoff

/-! STATUS (R42) -/

/-- Settles O48: a field is read by taking off, from bit 0 up, the fields that stand below it, and then those above. -/
theorem statusFieldsStandAtTheirBits : Obligations.StatusFieldsStandAtTheirBits := by
  unfold Obligations.StatusFieldsStandAtTheirBits
  intro s
  have hgphase : s.statusWord.extractLsb' 8 2 = s.gphase.code := by
    simp (disch := decide) only [State.statusWord, BitVec.extractLsb'_append_eq_of_le, Nat.reduceSub,
      BitVec.extractLsb'_append_eq_right]
  refine ⟨?busy, ?err, ?low, ?errCode, ?gphase, ?mid, ?feq, ?flt, ?high⟩
  case busy | err | feq | flt =>
    simp only [State.statusWord, BitVec.getLsbD_append, State.busy]
    simp
  case low | mid =>
    simp (disch := decide) only [State.statusWord, BitVec.extractLsb'_append_eq_of_le, Nat.reduceSub,
      BitVec.extractLsb'_append_eq_right]
    rfl
  case errCode =>
    simp (disch := decide) only [State.statusWord, BitVec.extractLsb'_append_eq_of_le, Nat.reduceSub,
      BitVec.extractLsb'_append_eq_right]
  case gphase =>
    rw [hgphase]
    cases s.gphase <;> rfl
  case high =>
    simp (disch := decide) only [State.statusWord, BitVec.extractLsb'_append_eq_of_le, Nat.reduceSub]
    decide

/-! Polling (70_reset_and_hazards.md R237, R240) -/

/-- A read of STATUS. -/
def statusPoll : Event := .access (.read 4 offStatus)

/-- A poll of a busy engine changes the response alone. -/
theorem step_statusPoll (hreset : s.inReset = false) (hheld : s.held = none) (hevents : s.events = statusPoll :: es) :
    step s = .next { s with events := es, response := some (.word s.statusWord) } :=
  (step_access hreset hheld hevents).trans (windowRead_register (by decide) rfl (.inr (.inl rfl)))

theorem run_succ_of_next {M : Host.Core} {s t : M.State} (h : M.step s = .next t) (k : Nat) :
    M.run (k + 1) s = M.run k t := by
  simp only [Host.Core.run]
  rw [h]

theorem run_one {M : Host.Core} (s : M.State) : M.run 1 s = M.step s := by
  simp only [Host.Core.run]
  cases M.step s <;> rfl

/-- Once the response is the STATUS word, more polls change nothing, and then the command completes. -/
theorem run_statusPolls (k : Nat) (hreset : s.inReset = false) (hheld : s.held = none) (hrunning : s.running = some w)
    (hresponse : s.response = some (.word s.statusWord)) (hevents : s.events = List.replicate k statusPoll) :
    Host.Core.run Sys2Proof.core (k + 1) s = complete (issue w { s with events := [] }) := by
  induction k generalizing s with
  | zero =>
    have hidle : s.events = [] := hevents
    have hstep : step s = complete (issue w s) := (step_noEvent hidle).trans (engineTurn_running hreset hrunning)
    rw [withEvents_self hidle]
    exact (run_one (M := Sys2Proof.core) s).trans hstep
  | succ k ih =>
    have hpoll := step_statusPoll hreset hheld (hevents.trans List.replicate_succ)
    refine (run_succ_of_next (M := Sys2Proof.core) hpoll _).trans ?_
    refine (ih (s := { s with events := List.replicate k statusPoll, response := some (.word s.statusWord) }) hreset
      hheld hrunning rfl rfl).trans ?_
    rw [← hresponse]

/-- Settles O54, by induction on the polls: the first sets the response, and the others leave the state as it is. -/
theorem pollingStatusDoesNotDisturbTheCommand : Obligations.PollingStatusDoesNotDisturbTheCommand := by
  unfold Obligations.PollingStatusDoesNotDisturbTheCommand
  intro k s w hreset hheld hrunning hevents
  have hpoll := step_statusPoll hreset hheld (hevents.trans List.replicate_succ)
  refine (run_succ_of_next (M := Sys2Proof.core) hpoll _).trans ?_
  exact run_statusPolls k (s := { s with events := List.replicate k statusPoll, response := some (.word s.statusWord) })
    hreset hheld hrunning rfl rfl

end Sys2Proof.Machine
end

section
/-! Sequences of commands (40_field.md R122 to R125, 42_ghash.md R180, 70_reset_and_hazards.md R234, R235): what a
sequence of words does when each command past the gate answers a next state without an error, and the three obligations
settled by it. -/

namespace Sys2Proof.Machine

open Sys2Proof.Claims

variable {s : State}

/-! A store and a load of the same block (R235) -/

theorem readBlock_memWrite (s : State) (blk : Nat) {bytes : List Byte} (hlen : bytes.length = 16) :
    (s.memWrite (blockAddr blk) bytes).readBlock blk = bytes := by
  have h := memRead_memWrite_inside s (blockAddr blk) (bytes := bytes) (k := 0) (n := 16) (by omega)
  rwa [Nat.add_zero, List.drop_zero, List.take_of_length_le hlen.le] at h

theorem blockToElem_elemToInt (x : Elem) : blockToElem (elemToInt x) = rev128 x := by
  rw [blockToElem, beValue_elemToInt, BitVec.ofNat_toNat, BitVec.setWidth_eq]

/-- Settles O55: a load reads the sixteen bytes that the store wrote, and the encodings are inverse to each other. -/
theorem storeThenLoadReturnsTheElement : Obligations.StoreThenLoadReturnsTheElement := by
  unfold Obligations.StoreThenLoadReturnsTheElement
  intro s a b blk hblk
  have hrange : s.blocksInRange blk 1 = true := (blocksInRange_iff s blk 1).2 hblk
  have hstored : ∀ bytes, (s.memWrite (blockAddr blk) bytes).blocksInRange blk 1 = true := fun _ => hrange
  refine ⟨_, _, _, exec_fstb_of_inRange hrange a, exec_fldb_of_inRange (hstored _) b, ?_, exec_fsti_of_inRange hrange a,
    ⟨_, exec_fldi_of_inRange (hstored _) b, ?_⟩, ⟨_, exec_fldb_of_inRange (hstored _) b, ?_⟩⟩
  · rw [State.readE_writeE_same, readBlock_memWrite s blk (elemToBlock_length _), blockToElem_elemToBlock]
  · rw [State.readE_writeE_same, readBlock_memWrite s blk (elemToInt_length _), intToElem_elemToInt]
  · rw [State.readE_writeE_same, readBlock_memWrite s blk (elemToInt_length _), blockToElem_elemToInt]

/-! Sequences of commands without an error -/

/-- The commands are well formed, each finds no error pending, and they lead from one state to the other. -/
inductive Runs : List Instr → State → State → Prop
  | nil (s : State) : Runs [] s s
  | cons {i : Instr} {is : List Instr} {s t u : State} (hi : i.wellFormed = true) (herr : s.err = false)
      (hexec : exec i s = .next t) (hrest : Runs is t u) : Runs (i :: is) s u

theorem Runs.issueAll_encode {is : List Instr} {s t : State} (h : Runs is s t) :
    issueAll (is.map encode) s = .next t := by
  induction h with
  | nil s => rfl
  | cons hi herr hexec _ ih =>
    exact (issueAll_cons_of_next ((issue_encode (decode_encode hi) herr).trans hexec) _).trans ih

theorem Runs.append {is js : List Instr} {s t u : State} (h : Runs is s t) (h' : Runs js t u) :
    Runs (is ++ js) s u := by
  induction h with
  | nil s => exact h'
  | cons hi herr hexec _ ih => exact .cons hi herr hexec (ih h')

/-! Tag verification (R180) -/

theorem readBlock_eq_iff (s : State) (blk : Nat) (x : Elem) :
    blockToElem (s.readBlock blk) = x ↔ s.readBlock blk = elemToBlock x := by
  constructor
  · rintro rfl
    rw [elemToBlock_blockToElem (readBlock_length s blk)]
  · intro h
    rw [h, blockToElem_elemToBlock]

/-- Settles O58: the three commands meet no error, and the block encoding is injective on 16-byte blocks. -/
theorem tagVerificationSetsFeq : Obligations.TagVerificationSetsFeq := by
  unfold Obligations.TagVerificationSetsFeq
  intro s a b blk herr hphase hab hfits hblk
  have hrange : s.blocksInRange blk 1 = true := (blocksInRange_iff s blk 1).2 hblk
  have hload := exec_fldb_of_inRange hrange a
  have htag := exec_gtag_of_done (s := s.writeE a (blockToElem (s.readBlock blk))) hphase b
  have hwf : (Instr.fldb a blk).wellFormed = true := hfits
  have hruns : Runs [.fldb a blk, .gtag b, .fcmp b a] s _ :=
    .cons hwf herr hload (.cons rfl herr htag (.cons rfl herr rfl (.nil _)))
  refine ⟨_, hruns.issueAll_encode, herr, ?_⟩
  rw [State.setFlags_feq, State.readE_writeE_same, State.readE_writeE_other _ _ hab, State.readE_writeE_same, cmpFeq,
    decide_eq_true_iff, eq_comm]
  exact readBlock_eq_iff s blk _

/-! Software re-initialisation (R234) -/

/-- Step 3: PLD of no block into each register of the list. -/
def State.zeroP (s : State) (l : List PReg) : State := l.foldl (fun t r => t.writeP r []) s

/-- Step 4: FLI of 0 into each register of the list. -/
def State.zeroE (s : State) (l : List EReg) : State := l.foldl (fun t r => t.writeE r 0) s

theorem exec_pld_nothing (s : State) (r : PReg) : exec (.pld r 0 0) s = .next (s.writeP r []) := by
  have hrange : s.blocksInRange 0 0 = true := (blocksInRange_iff s 0 0).2 (Nat.zero_le _)
  exact (exec_pld_of_inRange hrange r).trans (if_neg (Nat.not_lt_zero _))

theorem runs_zeroP (l : List PReg) (herr : s.err = false) : Runs (l.map fun r => .pld r 0 0) s (s.zeroP l) := by
  induction l generalizing s with
  | nil => exact .nil s
  | cons r l ih => exact .cons rfl herr (exec_pld_nothing s r) (ih (s := s.writeP r []) herr)

theorem runs_zeroE (l : List EReg) (herr : s.err = false) : Runs (l.map fun r => .fli r 0) s (s.zeroE l) := by
  induction l generalizing s with
  | nil => exact .nil s
  | cons r l ih => exact .cons rfl herr rfl (ih (s := s.writeE r 0) herr)

theorem readP_zeroP (l : List PReg) (r : PReg) : (s.zeroP l).readP r = if r ∈ l then [0] else s.readP r := by
  induction l generalizing s with
  | nil => rfl
  | cons x l ih =>
    refine (ih (s := s.writeP x [])).trans ?_
    rw [State.readP_writeP]
    by_cases hx : x = r
    · simp [hx, strip]
    · simp [hx, Ne.symm hx]

theorem readE_zeroE (l : List EReg) (r : EReg) : (s.zeroE l).readE r = if r ∈ l then 0 else s.readE r := by
  induction l generalizing s with
  | nil => rfl
  | cons x l ih =>
    refine (ih (s := s.writeE x 0)).trans ?_
    rw [State.readE_writeE]
    by_cases hx : x = r
    · simp [hx]
    · simp [hx, Ne.symm hx]

/-- All but the registers is the same. -/
def SameButRegs (s t : State) : Prop :=
  SameFlags s t ∧ SameResult s t ∧ SameGhash s t ∧ SameError s t ∧ SameMem s t

theorem sameButRegs_self (s : State) : SameButRegs s s := by
  simp [SameButRegs, SameFlags, SameResult, SameGhash, SameError, SameMem]

theorem SameButRegs.trans {t u : State} (h : SameButRegs s t) (h' : SameButRegs t u) : SameButRegs s u := by
  simp_all [SameButRegs, SameFlags, SameResult, SameGhash, SameError, SameMem]

theorem sameButRegs_zeroP (l : List PReg) : SameButRegs s (s.zeroP l) := by
  induction l generalizing s with
  | nil => exact sameButRegs_self s
  | cons r l ih => exact ih (s := s.writeP r [])

theorem sameButRegs_zeroE (l : List EReg) : SameButRegs s (s.zeroE l) ∧ SameP s (s.zeroE l) := by
  induction l generalizing s with
  | nil => exact ⟨sameButRegs_self s, fun _ => rfl⟩
  | cons r l ih => exact ih (s := s.writeE r 0)

/-- P0 once step 2 has set its coefficient of degree 0 to 1. -/
def setOne (p : Poly) : Poly := strip (setCoeff p 0 1)

theorem isZero_setOne (p : Poly) : isZero (setOne p) = false := by
  have hcoeff : coeff (setOne p) 0 = 1 := by
    rw [setOne, coeff_strip, coeff_setCoeff, if_pos rfl]
  rw [isZero, decide_eq_false_iff_not]
  intro hzero
  rw [hzero] at hcoeff
  exact absurd hcoeff (by decide)

/-- Setting the coefficient of degree 0 keeps the length. -/
theorem setOne_length {p : Poly} (hp : canonical p = true) : (setOne p).length = p.length := by
  have hpos := length_pos_of_canonical hp
  have hlen : (setCoeff p 0 1).length = p.length := by
    rw [setCoeff_length]
    omega
  have hcanonical : canonical (setCoeff p 0 1) = true := by
    rw [canonical_iff, lead_eq_coeff, hlen, coeff_setCoeff]
    obtain hone | ⟨hlong, hlead⟩ := (canonical_iff p).1 hp
    · exact .inl hone
    · rw [if_neg (by omega), ← lead_eq_coeff]
      exact .inr ⟨hlong, hlead⟩
  rw [setOne, strip_eq_self hcanonical, hlen]

/-- The state once step 2 has measured P0. -/
def State.measureOne (s : State) : State :=
  (((s.writeE 0 1).writeP 0 (setCoeff (s.readP 0) 0 1)).setResult ((setOne (s.readP 0)).length - 1)).setFlags
    false false

theorem exec_pdeg (s : State) (b : PReg) : exec (.pdeg b) s =
    .next ((s.setResult ((s.readP b).length - 1)).setFlags (isZero (s.readP b)) false) := rfl

theorem runs_measureOne (hlegal : s.params.Legal) (herr : s.err = false) :
    Runs [.fli 0 1, .psetc 0 0 0, .pdeg 0] s s.measureOne := by
  obtain ⟨⟨hpmaxlen, -⟩, -⟩ := hlegal
  have hpsetc := exec_psetc_of_fits (s := s.writeE 0 1) (imm := 0) (not_le.2 (Nat.zero_lt_of_lt hpmaxlen)) 0 0
  rw [State.readE_writeE_same] at hpsetc
  have hread : ((s.writeE 0 1).writeP 0 (setCoeff (s.readP 0) 0 1)).readP 0 = setOne (s.readP 0) :=
    State.readP_writeP_same _ _ _
  have hpdeg := exec_pdeg ((s.writeE 0 1).writeP 0 (setCoeff (s.readP 0) 0 1)) 0
  rw [hread, isZero_setOne] at hpdeg
  exact .cons rfl herr rfl (.cons rfl herr hpsetc (.cons rfl herr hpdeg (.nil _)))

/-- Steps 2 to 4 from a state without an error. -/
theorem runs_reinitSteps2To4 (hlegal : s.params.Legal) (herr : s.err = false) (hcode : s.errCode = 0)
    (hcmd : s.errCmd = 0) : ∃ t, Runs reinitSteps2To4 s t ∧ Reinitialised s t ∧
      t.result = BitVec.ofNat 32 ((setOne (s.readP 0)).length - 1) := by
  have hzeroP := sameButRegs_zeroP (s := s.measureOne) (List.finRange 16)
  obtain ⟨hzeroE, hpregs⟩ := sameButRegs_zeroE (s := s.measureOne.zeroP (List.finRange 16)) (List.finRange 16)
  obtain ⟨⟨hfeq, hflt⟩, hresult, hghash, ⟨herr', hcode', hcmd'⟩, hmem⟩ := hzeroP.trans hzeroE
  obtain ⟨-, -, -, ⟨hzeroPerr, -⟩, -⟩ := hzeroP
  have hruns := ((runs_measureOne hlegal herr).append (runs_zeroP (List.finRange 16) herr)).append
    (runs_zeroE (List.finRange 16) (hzeroPerr.trans herr))
  refine ⟨_, hruns, ⟨fun r => ?eregs, fun r => ?pregs, hfeq, hflt, herr'.trans herr, hcode'.trans hcode,
    hcmd'.trans hcmd, hghash, hmem⟩, hresult⟩
  case eregs => rw [readE_zeroE, if_pos (List.mem_finRange r)]
  case pregs => rw [hpregs, readP_zeroP, if_pos (List.mem_finRange r)]

theorem issueAll_encode_clrerr (s : State) (is : List Instr) :
    issueAll ((Instr.clrerr :: is).map encode) s = issueAll (is.map encode) s.clearError := by
  have hword : encode .clrerr = clrerrWord := by decide
  rw [List.map_cons, hword, issueAll_cons_of_next (issue_clrerrWord s)]

/-- The sequence of R234, with the degree that P0 had before step 2 left in RESULT. -/
theorem reinitCommands_spec (hlegal : s.params.Legal) :
    ∃ t, issueAll (reinitCommands.map encode) s = .next t ∧ Reinitialised s t ∧
      (canonical (s.readP 0) = true → t.result = BitVec.ofNat 32 ((s.readP 0).length - 1)) := by
  obtain ⟨t, hruns, hinit, hresult⟩ := runs_reinitSteps2To4 (s := s.clearError) hlegal rfl rfl rfl
  refine ⟨t, (issueAll_encode_clrerr s _).trans hruns.issueAll_encode, hinit, fun hcanonical => ?_⟩
  rw [hresult, State.clearError_readP, setOne_length hcanonical]

theorem reinitZeroingP0_spec (hlegal : s.params.Legal) :
    ∃ t, issueAll (reinitZeroingP0.map encode) s = .next t ∧ Reinitialised s t ∧ t.result = 0 := by
  obtain ⟨t, hruns, hinit, hresult⟩ := runs_reinitSteps2To4 (s := s.clearError.writeP 0 []) hlegal rfl rfl rfl
  have hall : Runs (.pld 0 0 0 :: reinitSteps2To4) s.clearError t :=
    .cons rfl rfl (exec_pld_nothing s.clearError 0) hruns
  refine ⟨t, (issueAll_encode_clrerr s _).trans hall.issueAll_encode, hinit, hresult.trans ?_⟩
  rw [State.readP_writeP_same, setOne_length (canonical_strip _)]
  rfl

/-- A state of the invariant whose P0 has degree 1. -/
def longP0 : State := State.reset.writeP 0 [0, 1]

/-- Settles O59: steps 3 and 4 zero every register, and what step 2 leaves in RESULT is P0's degree, since PSETC at
index 0 keeps its length. -/
theorem reinitialisationRestoresResetValues : Obligations.ReinitialisationRestoresResetValues := by
  unfold Obligations.ReinitialisationRestoresResetValues
  refine ⟨fun s hlegal => reinitCommands_spec hlegal, fun s hlegal hlen => ?short,
    fun s hlegal => reinitZeroingP0_spec hlegal, ?long⟩
  case short =>
    obtain ⟨t, hissue, hinit, hresult⟩ := reinitCommands_spec hlegal
    refine ⟨t, hissue, hinit, (hresult ((canonical_iff _).2 (.inl hlen))).trans ?_⟩
    rw [hlen]
    rfl
  case long =>
    have hinv : longP0.Inv := inv_writeP resetMeetsTheInvariant 0 (by decide)
    have hread : longP0.readP 0 = [0, 1] := by decide
    obtain ⟨t, hissue, -, hresult⟩ := reinitCommands_spec (s := longP0) (by decide)
    refine ⟨longP0, t, hinv, hissue, ?_⟩
    rw [hresult (hread ▸ rfl), hread]
    decide

end Sys2Proof.Machine
end

section
/-! The assembler (30_encoding.md R90, R91): the written form of a command is read back, a mnemonic of its own for each
pseudo-instruction, and the obligation settled by it. -/

namespace Sys2Proof.Machine

/-- The written form of a command is read as that command. -/
theorem assembleCore_asmForm (i : Instr) : assembleCore (asmForm i).1 (asmForm i).2 = some i := by
  cases i <;> rfl

theorem assemble_of_core {mnemonic : String} {ops : List Operand} {i : Instr}
    (h : assembleCore mnemonic ops = some i) :
    assemble mnemonic ops = if i.wellFormed then some [encode i] else none := by
  simp [assemble, h]

/-- A pseudo-instruction is read by its expansion, since no command has its mnemonic. -/
theorem assemble_of_pseudo {mnemonic : String} {ops : List Operand} {l : List Instr}
    (hcore : assembleCore mnemonic ops = none) (h : expandPseudo mnemonic ops = some l)
    (hl : l.all Instr.wellFormed = true) : assemble mnemonic ops = some (l.map encode) := by
  simp only [assemble, hcore, h, hl, if_pos]

theorem assemble_of_neither {mnemonic : String} {ops : List Operand} (hcore : assembleCore mnemonic ops = none)
    (h : expandPseudo mnemonic ops = none) : assemble mnemonic ops = none := by
  simp only [assemble, hcore, h]

theorem expandPseudo_pdivmod (pq pr pb pc : PReg) :
    expandPseudo "PDIVMOD" [.preg pq, .preg pr, .preg pb, .preg pc] =
      if pr ≠ pb ∧ pr ≠ pc ∧ pq ≠ pr then some [.pmod pr pb pc, .pdiv pq pb pc] else none := by
  simp [expandPseudo]

/-- Settles O60: the written form is read back to the command, whose fields are then checked; no command has the
mnemonic of a pseudo-instruction, so each of these is read by its expansion. -/
theorem assemblerEncodesTheWrittenForm : Obligations.AssemblerEncodesTheWrittenForm := by
  unfold Obligations.AssemblerEncodesTheWrittenForm
  refine ⟨fun i hi => ?wellFormed, fun i hi => ?illFormed, fun a b c => ?elements, fun a b c => ?polynomials,
    fun pq pr pb pc => ?pdivmod⟩
  case wellFormed => rw [assemble_of_core (assembleCore_asmForm i), if_pos hi]
  case illFormed => rw [assemble_of_core (assembleCore_asmForm i), hi, if_neg Bool.false_ne_true]
  case elements =>
    exact ⟨assemble_of_pseudo (l := [.fadd a b c]) rfl rfl rfl, assemble_of_pseudo (l := [.fmov a b]) rfl rfl rfl,
      assemble_of_pseudo (l := [.fmul a b b]) rfl rfl rfl, assemble_of_pseudo (l := [.fli a 0]) rfl rfl rfl,
      assemble_of_pseudo (l := [.fli a 1]) rfl rfl rfl⟩
  case polynomials =>
    exact ⟨assemble_of_pseudo (l := [.padd a b c]) rfl rfl rfl, assemble_of_pseudo (l := [.pld a 0 0]) rfl rfl rfl⟩
  case pdivmod =>
    have hexpand := expandPseudo_pdivmod pq pr pb pc
    split
    case isTrue hregs => exact assemble_of_pseudo rfl (hexpand.trans (if_pos hregs)) rfl
    case isFalse hregs => exact assemble_of_neither rfl (hexpand.trans (if_neg hregs))

end Sys2Proof.Machine
end
